-- ==== Sys2Proof/Word.lean ====
section
/-! DEFINITION. The words of the block: bus words, bus offsets, random draws, probabilities and bit sequences
(spec 00_scope.md R8, R10, R11; 20_memory.md R60; 42_channel.md R160, R161). -/

namespace Sys2Proof

/-- A bus word or a command word, 32 bits (R60, R90). -/
abbrev Word := BitVec 32

/-- A byte offset from BASE on the host bus, 14 bits (R60). -/
abbrev Offset := BitVec 14

/-- One value of the draw port, 16 bits (R160). -/
abbrev Draw := BitVec 16

/-- A fixed-point probability `P`, 17 bits, standing for `P / 65536` (R43, R161). -/
abbrev Prob := BitVec 17

/-- A sequence of bits; the head is `s[0]`, the first bit in transmission order (R8). -/
abbrev Bits := List Bool

/-- `zeros(m)`, the sequence of `m` zero bits (R8). -/
abbrev zeros (m : Nat) : Bits := List.replicate m false

end Sys2Proof
end

