-- ==== Sys2Proof/Config.lean ====
section
/-! DEFINITION. The parameters and constants of the block, and the values the spec leaves free
(spec 00_scope.md R7; 93_implementation_defined.md U3, U4, U6, U16, U17). -/

namespace Sys2Proof

/-- The open parameters of an instance (R7): the capacity `BUF_BITS` of each buffer in bits and the bus address
`BASE`. They are fixed for a machine; State carries them so that a claim can be made for every legal value. -/
structure Params where
  bufBits : Nat
  base    : Nat
  deriving DecidableEq, Repr

/-- The eight values of the configuration surface: CFG_N, CFG_K, CFG_REP and the five P_ registers (R38, R39, R42 to R47).
The active configuration A_N to A_PB2G has the same shape (R48). -/
structure CodeConfig where
  n     : BitVec 9
  k     : BitVec 9
  rep   : BitVec 16
  pBsc  : Prob
  pGood : Prob
  pBad  : Prob
  pG2b  : Prob
  pB2g  : Prob
  deriving DecidableEq, Repr, Inhabited

/-- All configuration registers after reset (R22). -/
def CodeConfig.zero : CodeConfig :=
  { n := 0, k := 0, rep := 0, pBsc := 0, pGood := 0, pBad := 0, pG2b := 0, pB2g := 0 }

namespace Config

/-- `NMAX`, the largest codeword length (R7). -/
abbrev nMax : Nat := 256

/-- `M`, the redundancy width n - k (R7). -/
abbrev redundancy : Nat := 3

/-- `PROB_ONE`, the fixed-point value of probability 1 (R7). -/
abbrev probOne : Nat := 65536

/-- `G`, the generator x^3 + x + 1, high-order coefficient first (R7). -/
def generator : Bits := [true, false, true, true]

/-- Free value: bit `j` of the IN buffer after the reset numbered `e` (R231, U3). Nothing constrains it. -/
opaque resetIn : Nat → Nat → Bool

/-- Free value: bit `j` of the OUT buffer after the reset numbered `e` (R231, U3). Nothing constrains it. -/
opaque resetOut : Nat → Nat → Bool

/-- Free value: the active configuration after the reset numbered `e` (R48, R231, U4). Nothing constrains it. -/
opaque resetActive : Nat → CodeConfig

/-- Free value: the answer to a read of an unspecified location while BUSY = 1 (R242, U6). Nothing constrains it. -/
opaque freeRead : Nat → Word

end Config

end Sys2Proof
end

