-- ==== Sys2Proof/Syntax.lean ====
section
/-! DEFINITION. The ten commands of the block, one constructor per row of spec/opcode_table.json
(spec 30_encoding.md R91, R93). No command has an operand. -/

namespace Sys2Proof

/-- The commands of R93. Every operand comes from the block's state (R91). -/
inductive Instr where
  | nop      -- NOP, R186
  | config   -- CONFIG, R185
  | chReset  -- CH_RESET, R187
  | move     -- MOVE, R188
  | bchEnc   -- BCH_ENC, R133
  | bchDec   -- BCH_DEC, R141
  | repEnc   -- REP_ENC, R111
  | repDec   -- REP_DEC, R115
  | bscTx    -- BSC_TX, R163
  | geTx     -- GE_TX, R170
  deriving DecidableEq, Repr

end Sys2Proof
end

