-- ==== Sys2Proof/WellFormed.lean ====
section
/-! DEFINITION. What is well formed: an instruction, a command word, the parameters of an instance
(spec 30_encoding.md R91, R92, R94; 00_scope.md R7). -/

namespace Sys2Proof

/-- Every command is well formed: no command has an operand field, register field or immediate (R91). -/
def Instr.wf : Instr → Bool
  | .nop | .config | .chReset | .move | .bchEnc | .bchDec | .repEnc | .repDec | .bscTx | .geTx => true

/-- A command word spells a command when RSV (bits [31:4]) is 0 and OPC (bits [3:0]) is at most 0x9 (R92, R94). -/
def commandWordWf (w : Word) : Bool :=
  w.extractLsb' 4 28 == 0 && decide ((w.extractLsb' 0 4).toNat ≤ 9)

/-- `BUF_BITS` is a multiple of 32 with 256 ≤ BUF_BITS ≤ 32768, and `BASE` is 16 KiB aligned (R7). -/
def Params.wf (p : Params) : Bool :=
  decide (p.bufBits % 32 = 0) && decide (256 ≤ p.bufBits) && decide (p.bufBits ≤ 32768) && decide (p.base % 16384 = 0)

end Sys2Proof
end

