-- ==== Sys2Proof/Decode.lean ====
section
/-! DEFINITION. Decoding and encoding of command words (spec 30_encoding.md R90, R92, R93, R94). -/

namespace Sys2Proof

/-- Why a word spells no command. Both raise ILLEGAL_CMD (60_exceptions.md R201). -/
inductive DecodeError where
  | reservedBits    -- RSV, bits [31:4], is not 0 (R92)
  | reservedOpcode  -- RSV is 0 and OPC is 0xA to 0xF (R93)
  deriving DecidableEq, Repr

/-- What a word decodes to: a command, or *illegal* (R94). -/
inductive Decoded where
  | instr   (i : Instr)
  | illegal (e : DecodeError)
  deriving DecidableEq, Repr

/-- The field OPC, bits [3:0] (R90). -/
def opcField (w : Word) : BitVec 4 := w.extractLsb' 0 4

/-- The field RSV, bits [31:4] (R90). -/
def rsvField (w : Word) : BitVec 28 := w.extractLsb' 4 28

/-- The opcode map of R93, read from OPC. -/
def decodeOpc (opc : Nat) : Decoded :=
  match opc with
  | 0x0 => .instr .nop
  | 0x1 => .instr .config
  | 0x2 => .instr .chReset
  | 0x3 => .instr .move
  | 0x4 => .instr .bchEnc
  | 0x5 => .instr .bchDec
  | 0x6 => .instr .repEnc
  | 0x7 => .instr .repDec
  | 0x8 => .instr .bscTx
  | 0x9 => .instr .geTx
  | _   => .illegal .reservedOpcode

/-- Decoding, total over all words (R92, R94). -/
def decode (w : Word) : Decoded :=
  if rsvField w = 0 then decodeOpc (opcField w).toNat else .illegal .reservedBits

/-- The OPC of a command, the opcode map of R93 read the other way. -/
def opcode : Instr → BitVec 4
  | .nop     => 0x0
  | .config  => 0x1
  | .chReset => 0x2
  | .move    => 0x3
  | .bchEnc  => 0x4
  | .bchDec  => 0x5
  | .repEnc  => 0x6
  | .repDec  => 0x7
  | .bscTx   => 0x8
  | .geTx    => 0x9

/-- The command word: RSV = 0 above OPC (R90, R93). -/
def encode (i : Instr) : Word := 0#28 ++ opcode i

/-- The one-word instruction whose table bits are `w`: the bits above `nbits` are 0. -/
def tableWord (nbits w : Nat) : Word := BitVec.ofNat 32 (w % 2 ^ nbits)

/-- The instruction the decoder reads from a row of the opcode table. -/
def decodeTableWord (nbits w : Nat) : Option Instr :=
  match decode (tableWord nbits w) with
  | .instr i   => some i
  | .illegal _ => none

end Sys2Proof
end

