-- ==== Sys2Proof/Machine/State.lean ====
section
/-! DEFINITION. The state of the block and of the agents around it, as plain data
(spec 10_state.md R20 to R52; 00_scope.md R5; 70_reset_and_hazards.md R230, R231). -/

namespace Sys2Proof.Machine

/-- `STATUS.ERR` (R27, R200): codes 0 to 4; codes 5 to 7 are never written. -/
inductive ErrCode where
  | none | illegalCmd | notConfigured | length | config
  deriving DecidableEq, Repr

/-- `STATUS.BRANCH` (R28): 0 NONE, 1 CLEAN, 2 CORRECTED, 3 UNCORRECTED. -/
inductive Branch where
  | none | clean | corrected | uncorrected
  deriving DecidableEq, Repr

/-- The Gilbert-Elliott channel state (R29): 0 is Good, 1 is Bad. -/
inductive Regime where
  | good | bad
  deriving DecidableEq, Repr

/-- The sequencer's in-flight state (R49): the command word being executed and the draws it has taken so far,
oldest first (R160). -/
structure InFlight where
  word  : Word
  taken : List Draw
  deriving DecidableEq, Repr

/-- The IN and OUT buffers, bit `j` at list index `j` (R40, R41). -/
structure Memory where
  inBuf  : Bits
  outBuf : Bits
  deriving DecidableEq, Repr

/-- Each buffer holds exactly `BUF_BITS` bits (R40, R41), so equal contents are equal data. -/
def Memory.wf (bufBits : Nat) (m : Memory) : Bool :=
  decide (m.inBuf.length = bufBits) && decide (m.outBuf.length = bufBits)

/-- One host access (R60): `bits` is the width of the access on the bus, 32 for every legal one (R66). -/
inductive BusAccess where
  | read  (bits : Nat) (off : Offset)
  | write (bits : Nat) (off : Offset) (v : Word)
  deriving DecidableEq, Repr

/-- The response to an access (R60, R66): OK or ERROR, with the data of a read (0 for a write). -/
structure BusResp where
  error : Bool
  data  : Word
  deriving DecidableEq, Repr

/-- One line of what the host still has to do (R96, R97): an access, the loop `wait` on BUSY, or the wait for the
IRQ output that program P6 uses. -/
inductive HostLine where
  | access (a : BusAccess)
  | wait
  | waitIrq
  deriving DecidableEq, Repr

/-- One move of one agent (R5): the host's next line, the sequencer's run to completion, both in the same cycle (R211),
a value supplied by the draw source (R160), the reset input asserted or released (R230, R232). -/
inductive Move where
  | host
  | seq
  | hostWithSeq
  | draw (u : Draw)
  | assertReset
  | releaseReset
  deriving DecidableEq, Repr

/-- The whole state (R52), the parameters, and the agents' own data. -/
structure State where
  /-- the instance's parameters (R7), never changed -/
  params   : Params
  /-- the command in flight; `STATUS.BUSY` is 1 exactly when there is one (R25, R49) -/
  inflight : Option InFlight
  /-- `STATUS.DONE` (R26) -/
  done     : Bool
  /-- `STATUS.ERR` (R27) -/
  err      : ErrCode
  /-- `STATUS.BRANCH` (R28) -/
  branch   : Branch
  /-- `STATUS.SHORT` (R30) -/
  short    : Bool
  /-- `STATUS.GE_STATE` (R29) -/
  geState  : Regime
  /-- `STATUS.CFG_VALID` (R31) -/
  cfgValid : Bool
  /-- `STATUS.OVR` (R32) -/
  ovr      : Bool
  /-- `INT_EN.DONE_IE` (R33) -/
  doneIe   : Bool
  /-- SYND (R34) -/
  synd     : BitVec 3
  /-- CORR_POS (R35) -/
  corrPos  : BitVec 8
  /-- IN_LEN (R36) -/
  inLen    : BitVec 16
  /-- OUT_LEN (R37) -/
  outLen   : BitVec 16
  /-- CFG_N, CFG_K, CFG_REP, P_BSC, P_GOOD, P_BAD, P_G2B, P_B2G (R38, R39, R42 to R47) -/
  cfg      : CodeConfig
  /-- the active configuration A_N to A_PB2G (R48) -/
  act      : CodeConfig
  /-- the IN and OUT buffers (R40, R41) -/
  mem      : Memory
  /-- the reset input, true while asserted (R230) -/
  rstPin   : Bool
  /-- the host's remaining lines, next first (R190) -/
  host     : List HostLine
  /-- the bus's answer to the latest access (R60) -/
  resp     : Option BusResp
  /-- the values the host's reads returned, oldest first (R96) -/
  reads    : List Word
  /-- the draws supplied and not yet taken, next first (R160) -/
  port     : List Draw
  /-- which agent moves next, next first; a free input (R180, R245) -/
  sched    : List Move
  /-- the model's own counter of free values used so far -/
  free     : Nat
  deriving DecidableEq, Repr

/-- Why the machine stops. -/
inductive Fault where
  /-- Raised by `hostMove` alone: the host makes an access while the reset input is asserted. Such accesses are not
  answered, the platform must not issue them and a model excludes them by premise (R230, U8). Safe. -/
  | accessInReset
  deriving DecidableEq, Repr

/-- Why a command has no meaning. -/
inductive Refusal where
  /-- Raised by an arm of `exec` without a meaning; no arm raises it, every command has its meaning. Safe. -/
  | notModelled (mnemonic : String)
  deriving DecidableEq, Repr

/-- The outcome of one step. -/
abbrev Result := Host.Outcome State Fault Refusal

/-- The buffers after the reset numbered `e`: an arbitrary value per bit (R231). -/
def Memory.afterReset (bufBits e : Nat) : Memory :=
  { inBuf  := (List.range bufBits).map (Config.resetIn e)
    outBuf := (List.range bufBits).map (Config.resetOut e) }

/-- The block right after reset release (R230, R231), with no access, draw or move pending. DESIGN CHOICE (log entries 5, 6, 18):
BUF_BITS = 4096, BASE = 0, the agents' lists empty. -/
def State.reset : State :=
  { params   := { bufBits := 4096, base := 0 }
    inflight := none
    done     := false
    err      := .none
    branch   := .none
    short    := false
    geState  := .good
    cfgValid := false
    ovr      := false
    doneIe   := false
    synd     := 0
    corrPos  := 0
    inLen    := 0
    outLen   := 0
    cfg      := CodeConfig.zero
    act      := Config.resetActive 0
    mem      := Memory.afterReset 4096 0
    rstPin   := false
    host     := []
    resp     := none
    reads    := []
    port     := []
    sched    := []
    free     := 1 }

end Sys2Proof.Machine
end

