-- ==== Sys2Proof/Machine/Flags.lean ====
section
/-! DEFINITION. STATUS as a word, its write-one-to-clear bits, the SHORT flag and the IRQ output
(spec 10_state.md R24 to R32, R50; 40_repetition.md R114; 60_exceptions.md R210, R211). -/

namespace Sys2Proof.Machine

/-- The 3-bit code of an error (R27, R200). -/
def ErrCode.code : ErrCode → BitVec 3
  | .none          => 0
  | .illegalCmd    => 1
  | .notConfigured => 2
  | .length        => 3
  | .config        => 4

/-- The 2-bit value of BRANCH (R28). -/
def Branch.code : Branch → BitVec 2
  | .none        => 0
  | .clean       => 1
  | .corrected   => 2
  | .uncorrected => 3

/-- The bit of GE_STATE (R29). -/
def Regime.bit : Regime → Bool
  | .good => false
  | .bad  => true

/-- `STATUS.BUSY` (R25). -/
def State.busy (s : State) : Bool := s.inflight.isSome

/-- The interrupt output (R50, R210). -/
def State.irq (s : State) : Bool := s.done && s.doneIe

/-- STATUS as the bus reads it when idle: bits [31:11] read 0 (R24). -/
def State.statusWord (s : State) : Word :=
  0#21 ++ BitVec.ofBool s.ovr ++ BitVec.ofBool s.cfgValid ++ BitVec.ofBool s.geState.bit ++ BitVec.ofBool s.short
    ++ s.branch.code ++ s.err.code ++ BitVec.ofBool s.done ++ BitVec.ofBool s.busy

/-- The STATUS fields that read as unspecified while BUSY = 1: BRANCH [6:5], SHORT [7], GE_STATE [8], CFG_VALID [9] (R242). -/
def statusFreeMask : Word := 0x3E0

/-- STATUS as the bus reads it while BUSY = 1: the masked fields come from the free value `f` (R242). -/
def State.statusWhileBusy (s : State) (f : Word) : Word :=
  (s.statusWord &&& ~~~statusFreeMask) ||| (f &&& statusFreeMask)

/-- A write-one-to-clear bit: writing 1 clears it, writing 0 leaves it (R26, R32, R65). -/
def w1c (old clear : Bool) : Bool := old && !clear

/-- SHORT after a REP_DEC on `len` bits with groups of `r` (R114, R115). -/
def shortFlag (len r : Nat) : Bool := decide (len % r ≠ 0)

end Sys2Proof.Machine
end

