-- ==== Sys2Proof/Machine/Ops.lean ====
section
/-! DEFINITION. The operations every command shares: bits and words, acceptance, completion, raising an error, the
checks of the data commands, the draw port, writing OUT, block reset
(spec 20_memory.md R61; 43_control.md R181, R182, R189; 60_exceptions.md R202, R203, R206; 70_reset_and_hazards.md R230 to R232). -/

namespace Sys2Proof.Machine

/-! ### Bits and words (R61) -/

/-- The number whose bit `b` is element `b` of the list. -/
def bitsToNat : Bits → Nat
  | []      => 0
  | b :: bs => b.toNat + 2 * bitsToNat bs

/-- Bits 0 to 31 of a word, least significant first. -/
def wordBits (v : Word) : Bits := (List.range 32).map v.getLsbD

/-- Word `w` of a buffer: `sum over b in 0..31 of buf[32w + b] * 2^b` (R61). -/
def getWord (buf : Bits) (w : Nat) : Word := BitVec.ofNat 32 (bitsToNat ((buf.drop (32 * w)).take 32))

/-- A buffer with word `w` replaced (R65). -/
def setWord (buf : Bits) (w : Nat) (v : Word) : Bits :=
  buf.take (32 * w) ++ wordBits v ++ buf.drop (32 * w + 32)

/-- Byte lane `b` of a word: bits `[8b+7 : 8b]` (R68). -/
def byteLane (v : Word) (b : Nat) : BitVec 8 := v.extractLsb' (8 * b) 8

/-- A sequence followed by zero bits up to `size` (R41). -/
def padTo (size : Nat) (xs : Bits) : Bits := xs ++ zeros (size - xs.length)

/-- `ceil_div(a, b)`, the least `q` with `q * b ≥ a` (R11). -/
def ceilDiv (a b : Nat) : Nat := (a + b - 1) / b

/-! ### Lifecycle (R181, R182) -/

/-- Acceptance of the word `w` (R181). -/
def accept (w : Word) (s : State) : State :=
  { s with inflight := some { word := w, taken := [] }, done := false
           err := .none, branch := .none, short := false }

/-- The end of the current command with the code `e`: ERR written, BUSY cleared, DONE set (R182). -/
def finish (e : ErrCode) (s : State) : State :=
  { s with inflight := none, done := true, err := e }

/-- `complete` (R11, R182). -/
def complete (s : State) : State := finish .none s

/-- `raise E` (R11, R189): the block's only exception. Nothing is saved, no mode changes and there is no handler (R207). -/
def raise (e : ErrCode) (s : State) : State := finish e s

/-- The checks shared by the data commands, in order: NOT_CONFIGURED, then LENGTH unless `fits` (R202, R203, R206). -/
def dataCommand (fits : Bool) (s : State) (body : Result) : Result :=
  if s.cfgValid = false then .next (raise .notConfigured s)
  else if fits = false then .next (raise .length s)
  else body

/-! ### The draw port (R160, R165, R244) -/

/-- The draws the command in flight has taken so far. -/
def State.taken (s : State) : List Draw :=
  match s.inflight with
  | some f => f.taken
  | none   => []

/-- The command in flight holds `us` as the draws it has taken. -/
def State.setTaken (s : State) (us : List Draw) : State :=
  { s with inflight := s.inflight.map fun f => { f with taken := us } }

/-- Takes `n` draws in all for the command in flight and goes on with them in order; while the port has too few, the
command takes what there is and waits with BUSY = 1 (R160, R244). -/
def withDraws (n : Nat) (s : State) (body : List Draw → State → Result) : Result :=
  if n ≤ (s.taken ++ s.port).length then
    body ((s.taken ++ s.port).take n) { s with port := s.port.drop (n - s.taken.length) }
  else
    .next { s.setTaken (s.taken ++ s.port) with port := [] }

/-! ### Results -/

/-- A successful data command writes every bit of OUT: the output sequence, then zeros; and OUT_LEN (R37, R41). -/
def writeOut (xs : Bits) (s : State) : State :=
  { s with mem := { s.mem with outBuf := padTo s.params.bufBits xs }, outLen := BitVec.ofNat 16 xs.length }

/-! ### Block reset (R230 to R232) -/

/-- The reset input is asserted: every register and STATUS field takes its reset value, the buffers and the active
configuration take fresh free values, a running command is abandoned and the draws it took are lost. The host, the draw
source and the schedule are other agents and keep their data (R5). -/
def blockReset (s : State) : State :=
  { s with
    inflight := none, done := false, err := .none, branch := .none, short := false, geState := .good, cfgValid := false
    ovr := false, doneIe := false, synd := 0, corrPos := 0, inLen := 0, outLen := 0, cfg := CodeConfig.zero
    act := Config.resetActive s.free, mem := Memory.afterReset s.params.bufBits s.free
    rstPin := true, resp := none, free := s.free + 1 }

/-- The reset input is released: the block keeps its reset state (R230). -/
def releaseReset (s : State) : State := { s with rstPin := false }

end Sys2Proof.Machine
end

