-- ==== Sys2Proof/Machine/Operands.lean ====
section
/-! DEFINITION. The operands of the commands: the input sequence, the parameters of the active configuration, the number
of draws (spec 10_state.md R36, R48; 30_encoding.md R91; 42_channel.md R165; 43_control.md R184). -/

namespace Sys2Proof.Machine

/-- `BUF_BITS` of this instance (R7). -/
abbrev State.bufBits (s : State) : Nat := s.params.bufBits

/-- `L = IN_LEN` (R36). -/
def State.len (s : State) : Nat := s.inLen.toNat

/-- `n = A_N` (R48). -/
def State.n (s : State) : Nat := s.act.n.toNat

/-- `k = A_K` (R48). -/
def State.k (s : State) : Nat := s.act.k.toNat

/-- `r = A_REP` (R48). -/
def State.r (s : State) : Nat := s.act.rep.toNat

/-- The input sequence `IN[0 .. IN_LEN-1]` (R36). -/
def State.input (s : State) : Bits := s.mem.inBuf.take s.len

/-- Checks K1 to K5 of R184. -/
def legalConfig (c : CodeConfig) : Bool :=
  decide (1 ≤ c.k.toNat)
    && decide (c.n.toNat = c.k.toNat + Config.redundancy)
    && decide (c.n.toNat ≤ Config.nMax)
    && decide (1 ≤ c.rep.toNat)
    && decide (c.pBsc.toNat ≤ Config.probOne) && decide (c.pGood.toNat ≤ Config.probOne)
    && decide (c.pBad.toNat ≤ Config.probOne) && decide (c.pG2b.toNat ≤ Config.probOne)
    && decide (c.pB2g.toNat ≤ Config.probOne)

/-- How many draws a command takes on an input of `len` bits (R165). -/
def drawsNeeded (i : Instr) (len : Nat) : Nat :=
  match i with
  | .bscTx => len
  | .geTx  => 2 * len
  | .nop | .config | .chReset | .move | .bchEnc | .bchDec | .repEnc | .repDec => 0

end Sys2Proof.Machine
end

