-- ==== Sys2Proof/Machine/Bch.lean ====
section
/-! DEFINITION. The BCH-style block encoder and decoder, BCH_ENC and BCH_DEC (spec 41_bch.md R130 to R141). -/

namespace Sys2Proof.Machine

/-- `b[j] <- b[j] xor x`. -/
def xorBit (b : Bits) (j : Nat) (x : Bool) : Bits := b.set j ((b.getD j false).xor x)

/-- XOR of the generator's four coefficients into `b[i .. i+3]` (R130). -/
def addGenerator (b : Bits) (i : Nat) : Bits :=
  (List.range 4).foldl (fun b t => xorBit b (i + t) (Config.generator.getD t false)) b

/-- Step `i` of the division loop (R130). -/
def divideStep (b : Bits) (i : Nat) : Bits := if b.getD i false then addGenerator b i else b

/-- `Divide(b)`: the loop of R130 over `i` in 0 .. k-1. -/
def divide (k : Nat) (b : Bits) : Bits := (List.range k).foldl divideStep b

/-- The syndrome tail `Divide(y)[k .. n)` (R131). -/
def syndromeTail (k : Nat) (y : Bits) : Bits := (divide k y).drop k

/-- The syndrome value `4·t[0] + 2·t[1] + t[2]`, so `t[0]` is bit 2 (R34, R131). -/
def syndrome (k : Nat) (y : Bits) : BitVec 3 :=
  let t := syndromeTail k y
  BitVec.ofBool (t.getD 0 false) ++ BitVec.ofBool (t.getD 1 false) ++ BitVec.ofBool (t.getD 2 false)

/-- `Enc(msg)`: the message followed by the remainder (R132). -/
def encodeWord (msg : Bits) : Bits := msg ++ syndromeTail msg.length (msg ++ zeros Config.redundancy)

/-- `flip(y, i)`: `y` with bit `i` inverted (R136). -/
def flipBit (y : Bits) (i : Nat) : Bits := y.set i (!y.getD i false)

/-- `Search(y)`: the least index whose flip zeroes the syndrome, candidates tried in increasing order (R136, R137). -/
def search (k : Nat) (y : Bits) : Option Nat :=
  (List.range y.length).find? fun i => syndrome k (flipBit y i) == 0

/-- What a decode returns: the message, the branch and the position (R138 to R140). -/
structure DecodeResult where
  msg    : Bits
  branch : Branch
  pos    : Nat
  deriving DecidableEq, Repr

/-- The three terminal branches of the decoder (R138, R139, R140). -/
def decodeWord (k : Nat) (y : Bits) : DecodeResult :=
  if syndrome k y = 0 then { msg := y.take k, branch := .clean, pos := 0 }
  else
    match search k y with
    | some i => { msg := (flipBit y i).take k, branch := .corrected, pos := i }
    | none   => { msg := y.take k, branch := .uncorrected, pos := 0 }

/-- BCH_ENC (R133). -/
def execBchEnc (s : State) : Result :=
  dataCommand (decide (s.len = s.k)) s
    (.next (complete (writeOut (encodeWord s.input) s)))

/-- BCH_DEC (R141). -/
def execBchDec (s : State) : Result :=
  dataCommand (decide (s.len = s.n)) s
    (let d := decodeWord s.k s.input
     .next (complete { writeOut d.msg s with
       synd := syndrome s.k s.input, corrPos := BitVec.ofNat 8 d.pos, branch := d.branch }))

end Sys2Proof.Machine
end

