-- ==== Sys2Proof/Machine/Channel.lean ====
section
/-! DEFINITION. The channel error injector, BSC_TX and GE_TX (spec 42_channel.md R161 to R170). -/

namespace Sys2Proof.Machine

/-- `Bernoulli(P)` on the draw `u`: true when `u < P` as unsigned integers (R161). -/
def bernoulli (p : Prob) (u : Draw) : Bool := decide (u.toNat < p.toNat)

/-- `BSC(x, P)` with one draw per bit, in index order (R162). -/
def bsc (p : Prob) (xs : Bits) (us : List Draw) : Bits := List.zipWith (fun x u => x.xor (bernoulli p u)) xs us

/-- The flip probability of a regime (R164). -/
def flipProb (c : CodeConfig) : Regime → Prob
  | .good => c.pGood
  | .bad  => c.pBad

/-- The regime after a bit, from the transition draw `v` (R164). -/
def nextRegime (c : CodeConfig) (st : Regime) (v : Draw) : Regime :=
  match st with
  | .bad  => if bernoulli c.pB2g v then .good else .bad
  | .good => if bernoulli c.pG2b v then .bad else .good

/-- `GEStep(st, b)` with the flip draw `u` and the transition draw `v`; the flip uses the regime before the transition (R164). -/
def geStep (c : CodeConfig) (st : Regime) (b : Bool) (u v : Draw) : Bool × Regime :=
  (b.xor (bernoulli (flipProb c st) u), nextRegime c st v)

/-- The loop of GE_TX: draw 2j is the flip draw and draw 2j+1 the transition draw of bit j (R165, R170). -/
def geRun (c : CodeConfig) : Regime → Bits → List Draw → Bits × Regime
  | st, b :: bs, u :: v :: us =>
    let o := geStep c st b u v
    let rest := geRun c o.2 bs us
    (o.1 :: rest.1, rest.2)
  | st, _, _ => ([], st)

/-- BSC_TX (R163). -/
def execBscTx (s : State) : Result :=
  dataCommand (decide (s.len ≤ s.bufBits)) s
    (withDraws (drawsNeeded .bscTx s.len) s fun us s =>
      .next (complete (writeOut (bsc s.act.pBsc s.input us) s)))

/-- GE_TX (R170). -/
def execGeTx (s : State) : Result :=
  dataCommand (decide (s.len ≤ s.bufBits)) s
    (withDraws (drawsNeeded .geTx s.len) s fun us s =>
      let o := geRun s.act s.geState s.input us
      .next (complete { writeOut o.1 s with geState := o.2 }))

end Sys2Proof.Machine
end

