-- ==== Sys2Proof/Machine/Control.lean ====
section
/-! DEFINITION. The control commands NOP, CONFIG, CH_RESET and MOVE (spec 43_control.md R184 to R188). -/

namespace Sys2Proof.Machine

/-- NOP (R186). -/
def execNop (s : State) : Result := .next (complete s)

/-- CONFIG (R184, R185): validate and latch the configuration registers, or clear CFG_VALID and raise CONFIG. -/
def execConfig (s : State) : Result :=
  if legalConfig s.cfg then
    .next (complete { s with act := s.cfg, cfgValid := true, geState := .good })
  else
    .next (raise .config { s with cfgValid := false })

/-- CH_RESET (R187). -/
def execChReset (s : State) : Result := .next (complete { s with geState := .good })

/-- MOVE (R188). -/
def execMove (s : State) : Result :=
  .next (complete { s with mem := { s.mem with inBuf := s.mem.outBuf }, inLen := s.outLen })

end Sys2Proof.Machine
end

