-- ==== Sys2Proof/Machine/Repetition.lean ====
section
/-! DEFINITION. The repetition encoder and decoder, REP_ENC and REP_DEC (spec 40_repetition.md R110 to R115). -/

namespace Sys2Proof.Machine

/-- `Replicate(m, r)`: each bit replaced in place by `r` copies of itself (R110). -/
def replicateBits (r : Nat) (m : Bits) : Bits := m.flatMap fun b => List.replicate r b

/-- The groups `y[g·r .. min((g+1)·r, L))` for `g` in 0 .. ceil_div(L, r) - 1 (R112). -/
def groups (r : Nat) (y : Bits) : List Bits :=
  (List.range (ceilDiv y.length r)).map fun g => (y.drop (g * r)).take r

/-- The majority vote of one group: 1 when `2·ones > s`, a tie is 0 (R113). -/
def majority (q : Bits) : Bool := decide (q.length < 2 * q.count true)

/-- REP_ENC (R111). -/
def execRepEnc (s : State) : Result :=
  dataCommand (decide (s.len ≤ s.bufBits) && decide (s.len * s.r ≤ s.bufBits)) s
    (.next (complete (writeOut (replicateBits s.r s.input) s)))

/-- REP_DEC (R115). -/
def execRepDec (s : State) : Result :=
  dataCommand (decide (s.len ≤ s.bufBits)) s
    (.next (complete { writeOut ((groups s.r s.input).map majority) s with short := shortFlag s.len s.r }))

end Sys2Proof.Machine
end

