-- ==== Sys2Proof/Machine/Dispatch.lean ====
section
/-! DEFINITION. One arm per command: the rule that a legal command word runs (spec 30_encoding.md R93, 43_control.md R183). -/

namespace Sys2Proof.Machine

def exec (i : Instr) (s : State) : Host.Outcome State Fault Refusal :=
  match i with
  | .nop => Sys2Proof.Machine.execNop s
  | .config => Sys2Proof.Machine.execConfig s
  | .chReset => Sys2Proof.Machine.execChReset s
  | .move => Sys2Proof.Machine.execMove s
  | .bchEnc => Sys2Proof.Machine.execBchEnc s
  | .bchDec => Sys2Proof.Machine.execBchDec s
  | .repEnc => Sys2Proof.Machine.execRepEnc s
  | .repDec => Sys2Proof.Machine.execRepDec s
  | .bscTx => Sys2Proof.Machine.execBscTx s
  | .geTx => Sys2Proof.Machine.execGeTx s

end Sys2Proof.Machine
end

