-- ==== Sys2Proof/Machine/Bus.lean ====
section
/-! DEFINITION. The host bus: address decode, register and buffer reads and writes, responses
(spec 20_memory.md R60 to R69, R76; 10_state.md R22 to R47; 70_reset_and_hazards.md R240, R242). -/

namespace Sys2Proof.Machine

/-- What an offset selects (R22, R62). -/
inductive Loc where
  | cmd | status | intEn | synd | corrPos | inLen | outLen
  | cfgN | cfgK | cfgRep | pBsc | pGood | pBad | pG2b | pB2g
  | inWord (w : Nat)
  | outWord (w : Nat)
  | reserved
  deriving DecidableEq, Repr

/-- Offset of the IN window (R76). -/
abbrev inWindow : Nat := 0x1000

/-- Offset of the OUT window (R76). -/
abbrev outWindow : Nat := 0x2000

/-- The word of a window of `bufBits / 8` bytes from `start` that `a` selects (R62). -/
def windowWord (bufBits start a : Nat) : Option Nat :=
  if start ≤ a ∧ a < start + bufBits / 8 ∧ a % 4 = 0 then some ((a - start) / 4) else none

/-- Address decode, in the order of R62: a register of R22, an IN word, an OUT word, otherwise a reserved location. -/
def locate (bufBits : Nat) (off : Offset) : Loc :=
  match off.toNat with
  | 0x000 => .cmd
  | 0x004 => .status
  | 0x008 => .intEn
  | 0x00C => .synd
  | 0x010 => .corrPos
  | 0x014 => .inLen
  | 0x018 => .outLen
  | 0x020 => .cfgN
  | 0x024 => .cfgK
  | 0x028 => .cfgRep
  | 0x02C => .pBsc
  | 0x030 => .pGood
  | 0x034 => .pBad
  | 0x038 => .pG2b
  | 0x03C => .pB2g
  | a =>
    match windowWord bufBits inWindow a with
    | some w => .inWord w
    | none =>
      match windowWord bufBits outWindow a with
      | some w => .outWord w
      | none   => .reserved

/-- The platform bus address of an offset: the block's window starts at BASE (R60, R76). -/
def busAddr (p : Params) (off : Offset) : Nat := p.base + off.toNat

/-! ### Reads -/

/-- Locations whose reads are unspecified, wholly or in the fields of R242, while BUSY = 1. -/
def Loc.freeWhileBusy : Loc → Bool
  | .status | .inWord _ | .outWord _ | .inLen | .outLen | .synd | .corrPos => true
  | .cmd | .intEn | .cfgN | .cfgK | .cfgRep | .pBsc | .pGood | .pBad | .pG2b | .pB2g | .reserved => false

/-- The value of a location as its rule says (R22, R61, R63, R67); every reserved bit reads 0. -/
def readLoc (s : State) : Loc → Word
  | .cmd       => 0
  | .status    => s.statusWord
  | .intEn     => (BitVec.ofBool s.doneIe).setWidth 32
  | .synd      => s.synd.setWidth 32
  | .corrPos   => s.corrPos.setWidth 32
  | .inLen     => s.inLen.setWidth 32
  | .outLen    => s.outLen.setWidth 32
  | .cfgN      => s.cfg.n.setWidth 32
  | .cfgK      => s.cfg.k.setWidth 32
  | .cfgRep    => s.cfg.rep.setWidth 32
  | .pBsc      => s.cfg.pBsc.setWidth 32
  | .pGood     => s.cfg.pGood.setWidth 32
  | .pBad      => s.cfg.pBad.setWidth 32
  | .pG2b      => s.cfg.pG2b.setWidth 32
  | .pB2g      => s.cfg.pB2g.setWidth 32
  | .inWord w  => getWord s.mem.inBuf w
  | .outWord w => getWord s.mem.outBuf w
  | .reserved  => 0

/-- The value a bus read returns: while BUSY = 1 the locations of R242 answer with a free value. -/
def readValue (s : State) (l : Loc) : Word :=
  if s.busy && l.freeWhileBusy then
    if l = .status then s.statusWhileBusy (Config.freeRead s.free) else Config.freeRead s.free
  else readLoc s l

/-- A read has no effect on the block (R69, R242); a read that used a free value moves the model's counter on. -/
def afterRead (s : State) (l : Loc) : State :=
  if s.busy && l.freeWhileBusy then { s with free := s.free + 1 } else s

/-! ### Writes -/

/-- Locations whose writes are dropped while BUSY = 1 (R240). -/
def Loc.droppedWhileBusy : Loc → Bool
  | .cmd | .inLen | .cfgN | .cfgK | .cfgRep | .pBsc | .pGood | .pBad | .pG2b | .pB2g | .inWord _ => true
  | .status | .intEn | .synd | .corrPos | .outLen | .outWord _ | .reserved => false

/-- The configuration registers take the values `c`. -/
def State.setCfg (s : State) (c : CodeConfig) : State := { s with cfg := c }

/-- A write that takes effect: RW fields keep the written bits of their fields (R63), STATUS clears DONE and OVR (R65),
CMD submits (R23), an IN word is stored (R65), read-only and reserved locations ignore the write (R64, R67). -/
def writeNow (s : State) (v : Word) : Loc → State
  | .cmd       => accept v s
  | .status    => { s with done := w1c s.done (v.getLsbD 1), ovr := w1c s.ovr (v.getLsbD 10) }
  | .intEn     => { s with doneIe := v.getLsbD 0 }
  | .inLen     => { s with inLen := v.setWidth 16 }
  | .cfgN      => s.setCfg { s.cfg with n := v.setWidth 9 }
  | .cfgK      => s.setCfg { s.cfg with k := v.setWidth 9 }
  | .cfgRep    => s.setCfg { s.cfg with rep := v.setWidth 16 }
  | .pBsc      => s.setCfg { s.cfg with pBsc := v.setWidth 17 }
  | .pGood     => s.setCfg { s.cfg with pGood := v.setWidth 17 }
  | .pBad      => s.setCfg { s.cfg with pBad := v.setWidth 17 }
  | .pG2b      => s.setCfg { s.cfg with pG2b := v.setWidth 17 }
  | .pB2g      => s.setCfg { s.cfg with pB2g := v.setWidth 17 }
  | .inWord w  => { s with mem := { s.mem with inBuf := setWord s.mem.inBuf w v } }
  | .synd | .corrPos | .outLen | .outWord _ | .reserved => s

/-- A bus write: while BUSY = 1 the locations of R240 drop it and OVR becomes 1 (R32, R240). -/
def writeLoc (s : State) (v : Word) (l : Loc) : State :=
  if s.busy && l.droppedWhileBusy then { s with ovr := true } else writeNow s v l

/-! ### Accesses -/

/-- The offset of an access. -/
def BusAccess.off : BusAccess → Offset
  | .read _ off    => off
  | .write _ off _ => off

/-- The width of an access in bits. -/
def BusAccess.width : BusAccess → Nat
  | .read bits _    => bits
  | .write bits _ _ => bits

/-- The only legal accesses are 32 bits wide at an offset that is a multiple of 4 (R66). -/
def BusAccess.legal (a : BusAccess) : Bool := decide (a.width = 32) && decide (a.off.toNat % 4 = 0)

/-- One access (R60): ERROR with no effect and read data 0 when it is not legal (R66, R208), otherwise OK. -/
def busAccess (s : State) (a : BusAccess) : State :=
  if a.legal then
    match a with
    | .read _ off =>
      let l := locate s.bufBits off
      { afterRead s l with resp := some { error := false, data := readValue s l } }
    | .write _ off v => { writeLoc s v (locate s.bufBits off) with resp := some { error := false, data := 0 } }
  else { s with resp := some { error := true, data := 0 } }

end Sys2Proof.Machine
end

