-- ==== Sys2Proof/Machine/HostAgent.lean ====
section
/-! DEFINITION. The host agent and its script (spec 43_control.md R190; 30_encoding.md R96, R97; 95_test_vectors.md P6). -/

namespace Sys2Proof.Machine

/-- The data of the latest response, 0 when there is none. -/
def State.respData (s : State) : Word :=
  match s.resp with
  | some r => r.data
  | none   => 0

/-- A read's value is kept for the end-state table (R96). -/
def keepRead (a : BusAccess) (s : State) : State :=
  match a with
  | .read _ _    => { s with reads := s.reads ++ [s.respData] }
  | .write _ _ _ => s

/-- The read of STATUS that `wait` repeats (R97). -/
def statusRead : BusAccess := .read 32 0x004

/-- The host performs its next line, `rest` being the lines after it. `wait` reads STATUS and goes on when bit 0 of the
value read is 0 (R97); that bit is BUSY (R24, R242; the law `statusRead_bit0`). The wait for IRQ goes on when the IRQ output
is 1 (R210). -/
def hostLine (s : State) (l : HostLine) (rest : List HostLine) : State :=
  match l with
  | .access a => keepRead a (busAccess { s with host := rest } a)
  | .wait =>
    if s.busy then busAccess s statusRead else { busAccess s statusRead with host := rest }
  | .waitIrq => if s.irq then { s with host := rest } else s

/-- A line that makes a bus access. -/
def HostLine.onBus : HostLine → Bool
  | .access _ | .wait => true
  | .waitIrq          => false

/-- The host's move: its next line. An access while the reset input is asserted is excluded (R230, U8). -/
def hostMove (s : State) : Result :=
  match s.host with
  | []        => .next s
  | l :: rest => if s.rstPin && l.onBus then .fault .accessInReset else .next (hostLine s l rest)

/-! ### The host script (R96, R97) -/

namespace Script

/-- `wr OFF, V` (R96). -/
def wr (off : Offset) (v : Word) : HostLine := .access (.write 32 off v)

/-- `rd OFF` (R96). -/
def rd (off : Offset) : HostLine := .access (.read 32 off)

/-- `cmdw V` (R97). -/
def cmdw (v : Word) : List HostLine := [wr 0x000 v]

/-- `cmd MNEMONIC` (R97). -/
def cmd (i : Instr) : List HostLine := cmdw (encode i)

/-- `run MNEMONIC` (R97). -/
def run (i : Instr) : List HostLine := cmd i ++ [.wait]

/-- The offset of word `w` of the IN window, `IN+w` (R96). DESIGN CHOICE (log entry 28): for w ≥ 3072 the number is above
0x3FFF, which R60 does not have; the model takes it modulo 2^14. -/
def inOff (w : Nat) : Offset := BitVec.ofNat 14 (inWindow + 4 * w)

/-- The offset of word `w` of the OUT window, `OUT+w` (R96). DESIGN CHOICE (log entry 28): for w ≥ 2048 the number is above
0x3FFF, which R60 does not have; the model takes it modulo 2^14. -/
def outOff (w : Nat) : Offset := BitVec.ofNat 14 (outWindow + 4 * w)

/-- `ldin` (R97): the words of the sequence, then its length; beyond 98304 bits the offsets are log entry 28's choice. -/
def ldin (bits : Bits) : List HostLine :=
  (List.range (ceilDiv bits.length 32)).map (fun w => wr (inOff w) (getWord bits w))
    ++ [wr 0x014 (BitVec.ofNat 32 bits.length)]

/-- `clrst` (R97). -/
def clrst : List HostLine := [wr 0x004 0x402]

end Script

end Sys2Proof.Machine
end

