-- ==== Sys2Proof/Machine/Sequencer.lean ====
section
/-! DEFINITION. The sequencer's move, and one move of any agent (spec 43_control.md R180, R182, R183; 00_scope.md R5;
60_exceptions.md R201, R211; 70_reset_and_hazards.md R230 to R232, R245). -/

namespace Sys2Proof.Machine

/-- The sequencer runs the command in flight: an illegal word raises ILLEGAL_CMD, a legal one runs its rule (R183, R201).
With no command in flight the block is idle and every register keeps its value (R215). -/
def seqMove (s : State) : Result :=
  match s.inflight with
  | none   => .next s
  | some f =>
    match decode f.word with
    | .instr i   => exec i s
    | .illegal _ => .next (raise .illegalCmd s)

/-- The host's access and the sequencer's completion in the same cycle: the access meets BUSY = 1 and the completion wins
(R26, R211). When no command is in flight only the host moves. -/
def hostWithSeq (s : State) : Result :=
  if s.busy then
    match hostMove s with
    | .next t    => seqMove t
    | .fault f   => .fault f
    | .refused r => .refused r
  else hostMove s

/-- The draw source supplies a value (R160). -/
def supplyDraw (u : Draw) (s : State) : State := { s with port := s.port ++ [u] }

/-- One move of one agent (R5). -/
def agentMove (m : Move) (s : State) : Result :=
  match m with
  | .host         => hostMove s
  | .seq          => seqMove s
  | .hostWithSeq  => hostWithSeq s
  | .draw u       => .next (supplyDraw u s)
  | .assertReset  => .next (blockReset s)
  | .releaseReset => .next (releaseReset s)

/-- Who moves when the schedule names nobody: the sequencer while a command is in flight, else the host. -/
def defaultMove (s : State) : Result := if s.busy then seqMove s else hostMove s

/-- One step: the move the schedule names next, or the default. -/
def scheduledMove (s : State) : Result :=
  match s.sched with
  | []      => defaultMove s
  | m :: ms => agentMove m { s with sched := ms }

/-- The next step performs the host's next line: the schedule names the host, or names nobody while no command is in
flight (log entry 2). -/
def hostMoves (s : State) : Bool :=
  match s.sched with
  | []                                                    => !s.busy
  | .host :: _ | .hostWithSeq :: _                        => true
  | .seq :: _ | .draw _ :: _ | .assertReset :: _ | .releaseReset :: _ => false

/-- The next step performs the last access of the host's program, and that access finds BUSY = 0 (R190). A `wait` that finds
BUSY = 1 is not its last read, and an access in the cycle of a completion meets BUSY = 1 (log entries 14, 29). -/
def lastAccessIdle (s : State) : Bool :=
  hostMoves s && !s.busy &&
    match s.host with
    | []        => false
    | l :: rest => l.onBus && rest.all fun l => !l.onBus

/-- The state in which the word `w` has just been accepted and the sequencer moves next. -/
def submitted (w : Word) (s : State) : State :=
  { accept w s with sched := .seq :: s.sched, rstPin := false }

end Sys2Proof.Machine
end

