-- ==== Sys2Proof/Machine/Step.lean ====
section
/-! DEFINITION. One step of the machine (spec 00_scope.md R5, R6; 43_control.md R180 to R183). -/

namespace Sys2Proof.Machine

/-- One step: one move of one agent. -/
def step (s : State) : Host.Outcome State Fault Refusal := scheduledMove s

/-- The block fetches nothing (R21): a command comes to run by being written to CMD. This is the state after the
acceptance of the word `w` (R181), the sequencer moving next. -/
def State.withFetchWord (s : State) (nbits w : Nat) : State := submitted (tableWord nbits w) s

end Sys2Proof.Machine
end

