-- ==== Sys2Proof/Safety.lean ====
section
/-! DEFINITION. What counts as a safe run: the host's duties, the shared premises of claims, the end of a run, and the
invariant of the machine (spec 70_reset_and_hazards.md R235, R241; 43_control.md R190; 20_memory.md R66). -/

namespace Sys2Proof.Machine

/-- An access that keeps the host's duties: legal on the bus (R66), not during reset (R230), and while BUSY = 1 neither
a write of R240 nor a read of R242 other than polling STATUS (R241). -/
def hostAccessSafe (s : State) (a : BusAccess) : Bool :=
  a.legal && !s.rstPin &&
    (!s.busy ||
      match a with
      | .read _ off    => decide (locate s.bufBits off = .status) || !(locate s.bufBits off).freeWhileBusy
      | .write _ off _ => !(locate s.bufBits off).droppedWhileBusy)

/-- *Clean start* (R235): just after reset release, buffers and active configuration arbitrary, nothing in progress. -/
structure CleanStart (s : State) : Prop where
  params   : s.params.wf = true
  buffers  : s.mem.wf s.bufBits = true
  idle     : s.busy = false
  status   : s.statusWord = 0
  intEn    : s.doneIe = false
  results  : s.synd = 0 ∧ s.corrPos = 0 ∧ s.outLen = 0
  inLen    : s.inLen = 0
  cfg      : s.cfg = CodeConfig.zero
  released : s.rstPin = false

/-- *Configured idle* (R235): BUSY = 0, CFG_VALID = 1 and the active configuration `c`. -/
structure ConfiguredIdle (c : CodeConfig) (s : State) : Prop where
  idle   : s.busy = false
  valid  : s.cfgValid = true
  active : s.act = c

/-- One step of a run (R190): no reset is asserted, so the sequencer runs each accepted command to completion. -/
def RunStep (s t : State) : Prop := step s = .next t ∧ s.sched.head? ≠ some .assertReset

/-- A run performs the accesses of the host's program in order (R70, R190); the schedule and the draws are free. -/
abbrev Run : State → State → Prop := Relation.ReflTransGen RunStep

/-- The end of the run from `s₀` (R190): `t` is the state after the last access of the program, and that access found
BUSY = 0. In `t` BUSY is 1 when that access was an accepted write to CMD; a run whose last access met BUSY = 1 has no end. -/
def RunEnds (s₀ t : State) : Prop := ∃ s, Run s₀ s ∧ lastAccessIdle s = true ∧ RunStep s t

/-- The draws a running command has taken are fewer than it needs, or none (R160, R165). -/
def takenOk (s : State) (f : InFlight) : Prop :=
  f.taken = [] ∨ ∃ i, decode f.word = .instr i ∧ f.taken.length < drawsNeeded i s.len

/-- The invariant of the machine. Every clause follows from the rules named beside it. -/
structure Invariant (s : State) : Prop where
  /-- BUF_BITS and BASE are legal parameters (R7) -/
  params_wf : s.params.wf = true
  /-- each buffer holds exactly BUF_BITS bits (R40, R41) -/
  mem_wf : s.mem.wf s.bufBits = true
  /-- acceptance cleared DONE, ERR, BRANCH and SHORT, and nothing sets them before completion (R181, R182) -/
  busy_clear : s.busy = true → s.done = false ∧ s.err = .none ∧ s.branch = .none ∧ s.short = false
  /-- CFG_VALID = 1 only with values that passed CONFIG's checks (R31, R184) -/
  cfg_legal : s.cfgValid = true → legalConfig s.act = true
  /-- the output sequence fits the OUT buffer (R41, R111, R115) -/
  outLen_le : s.outLen.toNat ≤ s.bufBits
  /-- a BRANCH other than NONE belongs to a command without error (R28) -/
  branch_ok : s.branch ≠ .none → s.err = .none ∧ s.short = false
  /-- SHORT belongs to a command without error (R30) -/
  short_ok : s.short = true → s.err = .none ∧ s.branch = .none
  /-- while the reset input is asserted the block is in its reset state (R230) -/
  in_reset : s.rstPin = true → s.busy = false ∧ s.statusWord = 0 ∧ s.doneIe = false ∧ s.cfg = CodeConfig.zero
    ∧ s.inLen = 0 ∧ s.outLen = 0 ∧ s.synd = 0 ∧ s.corrPos = 0
  /-- a waiting command holds fewer draws than it needs (R160) -/
  taken_lt : ∀ f, s.inflight = some f → takenOk s f

end Sys2Proof.Machine
end

