-- ==== Sys2Proof/Certificates/Slice0/Obligations.lean ====
section
/-! DEFINITION. The statements about the model, each from the numbered rules of spec/. -/

namespace Sys2Proof.Claims

open Sys2Proof.Machine

/-- `IN[j]` (R40). -/
abbrev inBit (s : State) (j : Nat) : Bool := s.mem.inBuf.getD j false

/-- `OUT[j]` (R41). -/
abbrev outBit (s : State) (j : Nat) : Bool := s.mem.outBuf.getD j false

/-- The state after the current command ends with the code `e` and no other change (R182, R189). -/
def endsWith (e : ErrCode) (s : State) : State := { s with inflight := none, done := true, err := e }

/-- A successful data command: OUT and OUT_LEN are written and the command ends with ERR = 0. -/
def delivers (out : Bits) (len : Nat) (s : State) : State :=
  { endsWith .none s with mem := { s.mem with outBuf := out }, outLen := BitVec.ofNat 16 len }

/-- The draws the command in flight has taken and those supplied, in order (R160). -/
abbrev drawsOf (s : State) : List Draw := s.taken ++ s.port

/-- Draw number `j` of the command in flight (R165). -/
abbrev drawAt (s : State) (j : Nat) : Nat := ((drawsOf s).getD j 0).toNat

/-- The command `i` written to CMD and run by the sequencer. -/
def issue (i : Instr) (s : State) : Result := exec i (accept (encode i) s)

/-- The six data commands (R93). -/
def isData : Instr → Bool
  | .bchEnc | .bchDec | .repEnc | .repDec | .bscTx | .geTx => true
  | .nop | .config | .chReset | .move => false

/-- The column "LENGTH when" of R203. -/
def lengthUnfit (i : Instr) (s : State) : Prop :=
  match i with
  | .bchEnc => s.inLen.toNat ≠ s.act.k.toNat
  | .bchDec => s.inLen.toNat ≠ s.act.n.toNat
  | .repEnc => s.params.bufBits < s.inLen.toNat ∨ s.params.bufBits < s.inLen.toNat * s.act.rep.toNat
  | .repDec | .bscTx | .geTx => s.params.bufBits < s.inLen.toNat
  | .nop | .config | .chReset | .move => False

/-- Checks K1 to K5 of R184, as the table writes them. -/
def configLegal (c : CodeConfig) : Prop :=
  1 ≤ c.k.toNat ∧ c.n.toNat = c.k.toNat + 3 ∧ c.n.toNat ≤ 256 ∧ 1 ≤ c.rep.toNat ∧
    c.pBsc.toNat ≤ 65536 ∧ c.pGood.toNat ≤ 65536 ∧ c.pBad.toNat ≤ 65536 ∧ c.pG2b.toNat ≤ 65536 ∧ c.pB2g.toNat ≤ 65536

/-- `e_j`, the word of `n` bits with a single 1 at index `j` (R135). -/
def unitWord (n j : Nat) : Bits := (List.range n).map fun i => decide (i = j)

/-- Bitwise XOR of two words (R9). -/
def xorWords (y z : Bits) : Bits := List.zipWith Bool.xor y z

/-- The table of R135: the syndrome of `e_j` by `d = (n - 1 - j) mod 7`. -/
def singleBitSyndrome : List (BitVec 3) := [1, 2, 4, 3, 6, 7, 5]

/-- All words of `n` bits. -/
def allWords : Nat → List Bits
  | 0     => [[]]
  | n + 1 => (allWords n).flatMap fun w => [false :: w, true :: w]

/-- The offsets of the RW registers other than STATUS and the masks of their fields (R22). -/
def rwRegisters : List (Offset × Word) :=
  [(0x008, 0x1), (0x014, 0xFFFF), (0x020, 0x1FF), (0x024, 0x1FF), (0x028, 0xFFFF), (0x02C, 0x1FFFF), (0x030, 0x1FFFF),
   (0x034, 0x1FFFF), (0x038, 0x1FFFF), (0x03C, 0x1FFFF)]

/-- The offset of word `w` of the window at `start` (R40, R41). -/
def windowOff (start w : Nat) : Offset := BitVec.ofNat 14 (start + 4 * w)

/-- The reserved locations (R22, R62): 0x01C, 0x040 to 0x0FFC, the unused rest of the windows, 0x3000 to 0x3FFC. -/
def reservedOff (bufBits : Nat) (off : Offset) : Prop :=
  off.toNat % 4 = 0 ∧
    (off.toNat = 0x01C ∨ (0x040 ≤ off.toNat ∧ off.toNat < 0x1000)
      ∨ (0x1000 + bufBits / 8 ≤ off.toNat ∧ off.toNat < 0x2000) ∨ 0x2000 + bufBits / 8 ≤ off.toNat)

/-- The state `s` with the response OK to a write. -/
def okWrite (s : State) : State := { s with resp := some { error := false, data := 0 } }

/-- The access `a` is performed in `s` and answered, and the value of a read is kept for the host (R60, R96). -/
def performs (s : State) (a : BusAccess) (t : State) : Prop :=
  ∃ r, (busAccess s a).resp = some r ∧
    t = { busAccess s a with reads := match a with | .read _ _ => s.reads ++ [r.data] | .write _ _ _ => s.reads }

end Sys2Proof.Claims

open Sys2Proof Sys2Proof.Machine Sys2Proof.Claims

/-! ### Decoding and dispatch -/

/-- R93: the ten words of the opcode map decode to the ten commands. -/
def Obligations.OpcodeMapWordsDecode : Prop :=
  decode 0x00000000 = .instr .nop ∧ decode 0x00000001 = .instr .config ∧ decode 0x00000002 = .instr .chReset ∧
  decode 0x00000003 = .instr .move ∧ decode 0x00000004 = .instr .bchEnc ∧ decode 0x00000005 = .instr .bchDec ∧
  decode 0x00000006 = .instr .repEnc ∧ decode 0x00000007 = .instr .repDec ∧ decode 0x00000008 = .instr .bscTx ∧
  decode 0x00000009 = .instr .geTx ∧
  ∀ opc : BitVec 4, 0xA ≤ opc.toNat → decode (0#28 ++ opc) = .illegal .reservedOpcode

/-- Every command decodes from its own word. -/
def Obligations.DecodeEncodeAgree : Prop := ∀ i : Instr, decode (encode i) = .instr i

/-- R92, R94: a word decodes to a command exactly when RSV = 0 and OPC ≤ 9, each such word is the command's own encoding,
and every other word is illegal. -/
def Obligations.DecodeTotalAndUnambiguous : Prop :=
  ∀ w : Word,
    ((∃ i, decode w = .instr i) ↔ (w.extractLsb' 4 28 = 0 ∧ (w.extractLsb' 0 4).toNat ≤ 9)) ∧
    ((∃ e, decode w = .illegal e) ↔ ¬ (w.extractLsb' 4 28 = 0 ∧ (w.extractLsb' 0 4).toNat ≤ 9)) ∧
    ∀ i, decode w = .instr i → w = encode i

/-- A step is the move the schedule names next. The sequencer's move runs the command the accepted word decodes to (R181, R183);
with no command in flight it changes nothing. The host's move performs its next line: an access is performed and the value of
a read kept (R60, R96), `wait` reads STATUS and goes on exactly when BUSY = 0 (R97), the wait for IRQ goes on exactly when IRQ
is 1 (log entry 19). A draw joins the port (R160).
THE MODEL'S CHOICE: the two clauses with `s.sched = []`, that an empty schedule lets the sequencer move while BUSY = 1 and the
host otherwise (log entry 2, DESIGN CHOICE), and that an access in the cycle of a completion comes before it (log entry 14,
DEDUCED for a write of STATUS, DESIGN CHOICE for the others). -/
def Obligations.StepRunsDecodedCommand : Prop :=
  ∀ (s : State) (ms : List Move),
    (∀ f i, s.inflight = some f → decode f.word = .instr i →
      (s.sched = [] → step s = exec i s) ∧
      (s.sched = .seq :: ms → step s = exec i { s with sched := ms }) ∧
      (∀ a rest, s.sched = .hostWithSeq :: ms → s.rstPin = false → s.host = .access a :: rest →
        ∃ t, performs { s with sched := ms, host := rest } a t ∧ step s = exec i t)) ∧
    (s.sched = .seq :: ms → s.inflight = none → step s = .next { s with sched := ms }) ∧
    (∀ a rest, s.rstPin = false → s.host = .access a :: rest →
      (s.sched = .host :: ms ∨ (s.sched = .hostWithSeq :: ms ∧ s.busy = false) →
        ∃ t, step s = .next t ∧ performs { s with sched := ms, host := rest } a t) ∧
      (s.sched = [] → s.busy = false → ∃ t, step s = .next t ∧ performs { s with host := rest } a t)) ∧
    (∀ rest, s.rstPin = false → s.sched = .host :: ms → s.host = .wait :: rest →
      step s = .next { busAccess { s with sched := ms } (.read 32 0x004) with
        host := if s.busy then .wait :: rest else rest }) ∧
    (∀ rest, s.sched = .host :: ms → s.host = .waitIrq :: rest →
      step s = .next { s with sched := ms, host := if s.irq then rest else .waitIrq :: rest }) ∧
    (s.sched = .host :: ms → s.host = [] → step s = .next { s with sched := ms }) ∧
    (∀ u, s.sched = .draw u :: ms → step s = .next { s with sched := ms, port := s.port ++ [u] })

/-- The state of `withFetchWord` runs the command of its word in the next step. -/
def Obligations.FetchWordRunsInNextStep : Prop :=
  ∀ (s : State) (i : Instr),
    step (s.withFetchWord 32 (encode i).toNat) = exec i (accept (encode i) { s with rstPin := false })

/-- R201: an illegal word completes with ILLEGAL_CMD and changes no state but ERR, BUSY and DONE, configured or not. -/
def Obligations.IllegalWordCompletesWithIllegalCmd : Prop :=
  ∀ (s : State) (f : InFlight) (ms : List Move), s.inflight = some f → s.sched = .seq :: ms →
    (f.word.extractLsb' 4 28 ≠ 0 ∨ 0xA ≤ (f.word.extractLsb' 0 4).toNat) →
    step s = .next (endsWith .illegalCmd { s with sched := ms })

/-! ### Lifecycle -/

/-- R181: a write to CMD while BUSY = 0 is accepted in one step; every other field and register keeps its value; while
BUSY = 1 it is not accepted. -/
def Obligations.CommandAcceptance : Prop :=
  ∀ (s : State) (w : Word),
    (s.busy = false → busAccess s (.write 32 0x000 w)
      = okWrite { s with inflight := some { word := w, taken := [] }, done := false, err := .none, branch := .none, short := false }) ∧
    (s.busy = true → busAccess s (.write 32 0x000 w) = okWrite { s with ovr := true })

/-- R182: with its draws supplied every command completes: BUSY = 0 and DONE = 1 afterwards. -/
def Obligations.EveryCommandCompletes : Prop :=
  ∀ (i : Instr) (s : State), drawsNeeded i s.len ≤ s.taken.length + s.port.length →
    ∃ t, exec i s = .next t ∧ t.busy = false ∧ t.done = true

/-- R189: a command that raises an error changes nothing but ERR, BUSY and DONE and, for CONFIG only, CFG_VALID. -/
def Obligations.ErrorChangesNothingElse : Prop :=
  (∀ (i : Instr) (s t : State), s.err = .none → exec i s = .next t → t.err ≠ .none →
    t = endsWith t.err { s with cfgValid := if i = .config then false else s.cfgValid }) ∧
  ∀ (s : State) (f : InFlight) (e : DecodeError), s.inflight = some f → decode f.word = .illegal e →
    seqMove s = .next (endsWith .illegalCmd s)

/-- R202 to R204, R206: which code a completed command reports. -/
def Obligations.ErrCodeOfCompletedCommand : Prop :=
  ∀ (i : Instr) (s t : State), s.busy = true → exec i s = .next t → t.busy = false →
    (isData i = true → s.cfgValid = false → t.err = .notConfigured) ∧
    (isData i = true → s.cfgValid = true → lengthUnfit i s → t.err = .length) ∧
    (isData i = true → s.cfgValid = true → ¬ lengthUnfit i s → t.err = .none) ∧
    (i = .config → ¬ configLegal s.cfg → t.err = .config ∧ t.cfgValid = false) ∧
    (i = .config → configLegal s.cfg → t.err = .none) ∧
    (i = .nop ∨ i = .chReset ∨ i = .move → t.err = .none)

/-- R160, R244: a channel command that lacks draws takes what the port holds and waits with BUSY = 1. -/
def Obligations.StarvedChannelCommandWaits : Prop :=
  ∀ (i : Instr) (s : State) (f : InFlight), s.inflight = some f → s.cfgValid = true → s.inLen.toNat ≤ s.params.bufBits →
    f.taken.length + s.port.length < drawsNeeded i s.len →
    exec i s = .next { s with inflight := some { f with taken := f.taken ++ s.port }, port := [] }

/-- R165: BSC_TX on L bits takes exactly L draws and GE_TX exactly 2·L when they complete without error; every other
command, and a command that raises an error, takes none. -/
def Obligations.DrawsTakenExactly : Prop :=
  ∀ (i : Instr) (s t : State), s.busy = true → s.taken = [] → exec i s = .next t → t.busy = false →
    t.port = s.port.drop (if t.err = .none then
      (match i with
       | .bscTx => s.inLen.toNat
       | .geTx => 2 * s.inLen.toNat
       | .nop | .config | .chReset | .move | .bchEnc | .bchDec | .repEnc | .repDec => 0) else 0)

/-! ### Control commands -/

/-- R186: NOP completes in every state; only what acceptance and completion write changes. -/
def Obligations.NopCompletes : Prop :=
  ∀ s : State,
    exec .nop s = .next (endsWith .none s) ∧
    issue .nop s = .next (endsWith .none { s with branch := .none, short := false })

/-- R184, R185: CONFIG latches a legal configuration and sets the channel to Good; otherwise it clears CFG_VALID and
raises CONFIG. No other command makes CFG_VALID 1. -/
def Obligations.ConfigLatchesLegalConfiguration : Prop :=
  (∀ s : State,
    (configLegal s.cfg → exec .config s
      = .next (endsWith .none { s with act := s.cfg, cfgValid := true, geState := .good })) ∧
    (¬ configLegal s.cfg → exec .config s = .next (endsWith .config { s with cfgValid := false })) ∧
    (configLegal s.cfg → issue .config s
      = .next (endsWith .none { s with act := s.cfg, cfgValid := true, geState := .good, branch := .none, short := false }))) ∧
  ∀ (i : Instr) (s t : State), exec i s = .next t → s.cfgValid = false → t.cfgValid = true → i = .config

/-- R187: CH_RESET completes in every state and sets the channel to Good, nothing else. -/
def Obligations.ChResetSetsGood : Prop :=
  ∀ s : State, exec .chReset s = .next (endsWith .none { s with geState := .good })

/-- R188: MOVE completes in every state, copies OUT to IN and OUT_LEN to IN_LEN, and a second MOVE changes nothing more. -/
def Obligations.MoveCopiesOutToIn : Prop :=
  ∀ s : State,
    exec .move s = .next (endsWith .none { s with mem := { s.mem with inBuf := s.mem.outBuf }, inLen := s.outLen }) ∧
    ∀ t, exec .move s = .next t → exec .move t = .next t

/-! ### BCH commands -/

/-- R132, R133: BCH_ENC, its result, its frame, its two errors, its corner cases and its example. -/
def Obligations.BchEncResult : Prop :=
  (∀ k, encodeWord (zeros k) = zeros (k + 3)) ∧ encodeWord [false] = [false, false, false, false] ∧
  encodeWord [true] = [true, false, true, true] ∧
  encodeWord [true, false, true, false, true] = [true, false, true, false, true, true, false, true] ∧
  ∀ s : State, Invariant s →
    (s.cfgValid = false → exec .bchEnc s = .next (endsWith .notConfigured s)) ∧
    (s.cfgValid = true → s.inLen.toNat ≠ s.act.k.toNat → exec .bchEnc s = .next (endsWith .length s)) ∧
    (s.cfgValid = true → s.inLen.toNat = s.act.k.toNat →
      ∃ out, exec .bchEnc s = .next (delivers out s.act.n.toNat s) ∧ out.length = s.params.bufBits ∧
        out.take s.act.n.toNat = encodeWord (s.mem.inBuf.take s.act.k.toNat) ∧
        (∀ j, j < s.act.k.toNat → out.getD j false = inBit s j) ∧
        (∀ j, s.act.k.toNat ≤ j → j < s.act.n.toNat →
          out.getD j false = (divide s.act.k.toNat (s.mem.inBuf.take s.act.k.toNat ++ zeros 3)).getD j false) ∧
        (∀ j, s.act.n.toNat ≤ j → out.getD j false = false))

/-- R141 with R136, R138, R139, R140: BCH_DEC, its three branches, its frame and its two errors. The corrected index is the
least index whose flip zeroes the syndrome. -/
def Obligations.BchDecResult : Prop :=
  ∀ s : State, Invariant s →
    (s.cfgValid = false → exec .bchDec s = .next (endsWith .notConfigured s)) ∧
    (s.cfgValid = true → s.inLen.toNat ≠ s.act.n.toNat → exec .bchDec s = .next (endsWith .length s)) ∧
    (s.cfgValid = true → s.inLen.toNat = s.act.n.toNat →
      ∃ out br pos, exec .bchDec s = .next { delivers out s.act.k.toNat s with
          synd := syndrome s.act.k.toNat (s.mem.inBuf.take s.act.n.toNat), corrPos := BitVec.ofNat 8 pos, branch := br } ∧
        out.length = s.params.bufBits ∧ pos < 256 ∧ (∀ j, s.act.k.toNat ≤ j → out.getD j false = false) ∧
        (syndrome s.act.k.toNat (s.mem.inBuf.take s.act.n.toNat) = 0 →
          br = .clean ∧ pos = 0 ∧ ∀ j, j < s.act.k.toNat → out.getD j false = inBit s j) ∧
        (syndrome s.act.k.toNat (s.mem.inBuf.take s.act.n.toNat) ≠ 0 →
          (∀ i, i < s.act.n.toNat → syndrome s.act.k.toNat (flipBit (s.mem.inBuf.take s.act.n.toNat) i) = 0 →
            (∀ h, h < i → syndrome s.act.k.toNat (flipBit (s.mem.inBuf.take s.act.n.toNat) h) ≠ 0) →
            br = .corrected ∧ pos = i ∧
              ∀ j, j < s.act.k.toNat → out.getD j false = if j = i then !inBit s j else inBit s j) ∧
          ((∀ i, i < s.act.n.toNat → syndrome s.act.k.toNat (flipBit (s.mem.inBuf.take s.act.n.toNat) i) ≠ 0) →
            br = .uncorrected ∧ pos = 0 ∧ ∀ j, j < s.act.k.toNat → out.getD j false = inBit s j)))

/-- R130: the loop keeps the buffer's length, tests and clears index i at step i, changes no index outside i .. i+3, and
leaves the first k bits 0. -/
def Obligations.DivisionLoop : Prop :=
  ∀ (k : Nat) (b : Bits), b.length = k + 3 →
    (divide k b).length = k + 3 ∧ (∀ j, j < k → (divide k b).getD j false = false) ∧
    (∀ i, i < k → divide (i + 1) b = (if (divide i b).getD i false
      then (((((divide i b).set i (!(divide i b).getD i false)).set (i + 2) (!(divide i b).getD (i + 2) false))).set (i + 3)
        (!(divide i b).getD (i + 3) false))
      else divide i b)) ∧ divide 0 b = b

/-- R131, R9: the syndrome tail is the coefficient vector of the remainder of y(x) divided by x^3 + x + 1, highest
coefficient in bit 2. -/
def Obligations.SyndromeIsPolynomialRemainder : Prop :=
  ∀ (k : Nat) (y : Bits), y.length = k + 3 →
    (∑ j ∈ Finset.range (k + 3), if y.getD j false then (Polynomial.X : Polynomial (ZMod 2)) ^ (k + 2 - j) else 0)
        %ₘ (Polynomial.X ^ 3 + Polynomial.X + 1)
      = (if (syndrome k y).getLsbD 2 then Polynomial.X ^ 2 else 0) + (if (syndrome k y).getLsbD 1 then Polynomial.X else 0)
        + (if (syndrome k y).getLsbD 0 then 1 else 0) ∧
    (syndrome k y).toNat = 4 * ((divide k y).getD k false).toNat + 2 * ((divide k y).getD (k + 1) false).toNat
      + ((divide k y).getD (k + 2) false).toNat

/-- R132, R134: a codeword is the message followed by the remainder, and its syndrome is 0. -/
def Obligations.CodewordsHaveZeroSyndrome : Prop :=
  ∀ msg : Bits,
    (encodeWord msg).length = msg.length + 3 ∧ (encodeWord msg).take msg.length = msg ∧
    (encodeWord msg).drop msg.length = (divide msg.length (msg ++ zeros 3)).drop msg.length ∧
    syndrome msg.length (encodeWord msg) = 0

/-- R135: the syndrome is linear, the single-bit syndromes follow the table, and they agree exactly for indices congruent
modulo 7. -/
def Obligations.SyndromeLinearWithPeriodSeven : Prop :=
  (∀ (k : Nat) (y z : Bits), y.length = k + 3 → z.length = k + 3 →
    syndrome k (xorWords y z) = syndrome k y ^^^ syndrome k z) ∧
  (∀ k j : Nat, j < k + 3 → syndrome k (unitWord (k + 3) j) = singleBitSyndrome.getD ((k + 2 - j) % 7) 0) ∧
  (∀ k i j : Nat, i < k + 3 → j < k + 3 →
    (syndrome k (unitWord (k + 3) i) = syndrome k (unitWord (k + 3) j) ↔ i % 7 = j % 7))

/-- R136, R137: the search returns the least index whose flip zeroes the syndrome, or none when there is none; the
qualifying indices form one class modulo 7, so the result is below 7. -/
def Obligations.SearchTakesLeastIndexBelowSeven : Prop :=
  ∀ (k : Nat) (y : Bits), y.length = k + 3 → syndrome k y ≠ 0 →
    (∀ i, search k y = some i ↔
      (i < k + 3 ∧ syndrome k (flipBit y i) = 0 ∧ ∀ h, h < i → syndrome k (flipBit y h) ≠ 0)) ∧
    (search k y = none ↔ ∀ i, i < k + 3 → syndrome k (flipBit y i) ≠ 0) ∧
    (∀ i, search k y = some i → i < 7) ∧
    (∀ i j, i < k + 3 → j < k + 3 → syndrome k (flipBit y i) = 0 → (syndrome k (flipBit y j) = 0 ↔ i % 7 = j % 7))

/-- R142: BCH_ENC, MOVE, BCH_DEC gives the message back, and so it does through a BSC with P_BSC = 0, whatever the draws. -/
def Obligations.BchRoundTrip : Prop :=
  ∀ s : State, Invariant s → s.cfgValid = true → s.inLen.toNat = s.act.k.toNat →
    (∃ s1 s2 s3, issue .bchEnc s = .next s1 ∧ issue .move s1 = .next s2 ∧ issue .bchDec s2 = .next s3 ∧
      (∀ j, j < s.act.k.toNat → outBit s3 j = inBit s j) ∧ s3.outLen.toNat = s.act.k.toNat ∧
      s3.branch = .clean ∧ s3.synd = 0 ∧ s3.corrPos = 0 ∧ s3.err = .none) ∧
    (s.act.pBsc = 0 → s.act.n.toNat ≤ s.port.length →
      ∃ s1 s2 s3 s4 s5, issue .bchEnc s = .next s1 ∧ issue .move s1 = .next s2 ∧ issue .bscTx s2 = .next s3 ∧
        issue .move s3 = .next s4 ∧ issue .bchDec s4 = .next s5 ∧
        (∀ j, j < s.act.k.toNat → outBit s5 j = inBit s j) ∧ s5.branch = .clean ∧ s5.synd = 0 ∧ s5.corrPos = 0)

/-- R143: a single error at index j of a codeword is decoded CORRECTED at position j mod 7; the message comes back exactly
when j ≤ 6, and for j ≥ 7 it is wrong in bit j mod 7, and in bit j when j < k. -/
def Obligations.SingleErrorDecoding : Prop :=
  ∀ (s : State) (m : Bits) (j : Nat), Invariant s → s.cfgValid = true → s.inLen.toNat = s.act.n.toNat →
    m.length = s.act.k.toNat → j < s.act.n.toNat → s.mem.inBuf.take s.act.n.toNat = flipBit (encodeWord m) j →
    ∃ t, exec .bchDec s = .next t ∧ t.branch = .corrected ∧ t.corrPos.toNat = j % 7 ∧ t.err = .none ∧ t.synd ≠ 0 ∧
      t.synd = syndrome s.act.k.toNat (unitWord s.act.n.toNat j) ∧
      (t.mem.outBuf.take s.act.k.toNat = m ↔ j ≤ 6) ∧
      (7 ≤ j → j % 7 < s.act.k.toNat ∧ outBit t (j % 7) ≠ m.getD (j % 7) false ∧
        (j < s.act.k.toNat → outBit t j ≠ m.getD j false))

/-- R144: a double error at congruent indices is not detected; at other indices, for n ≥ 7, it is miscorrected at the least
index of a third class modulo 7. -/
def Obligations.DoubleErrorDecoding : Prop :=
  ∀ (s : State) (m : Bits) (i j : Nat), Invariant s → s.cfgValid = true → s.inLen.toNat = s.act.n.toNat →
    m.length = s.act.k.toNat → i < j → j < s.act.n.toNat →
    s.mem.inBuf.take s.act.n.toNat = flipBit (flipBit (encodeWord m) i) j →
    ∃ t, exec .bchDec s = .next t ∧ t.err = .none ∧
      (i % 7 = j % 7 → t.branch = .clean ∧ t.synd = 0 ∧
        (∀ h, h < s.act.k.toNat → (outBit t h = m.getD h false ↔ (h ≠ i ∧ h ≠ j)))) ∧
      (i % 7 ≠ j % 7 → t.synd ≠ 0 ∧
        t.synd = syndrome s.act.k.toNat (unitWord s.act.n.toNat i) ^^^ syndrome s.act.k.toNat (unitWord s.act.n.toNat j) ∧
        (7 ≤ s.act.n.toNat → t.branch = .corrected ∧ t.corrPos.toNat < 7 ∧
          t.synd = syndrome s.act.k.toNat (unitWord s.act.n.toNat t.corrPos.toNat) ∧
          t.corrPos.toNat ≠ i ∧ t.corrPos.toNat ≠ j ∧
          (i < s.act.k.toNat ∨ j < s.act.k.toNat ∨ t.corrPos.toNat < s.act.k.toNat →
            t.mem.outBuf.take s.act.k.toNat ≠ m)))

/-- R145: exactly which words decode UNCORRECTED, and how many there are of lengths 4, 5 and 6. -/
def Obligations.UncorrectedBranchExactly : Prop :=
  (∀ (k : Nat) (y : Bits), 1 ≤ k → y.length = k + 3 →
    ((decodeWord k y).branch = .uncorrected ↔
      ((k = 1 ∧ (syndrome k y = 5 ∨ syndrome k y = 6 ∨ syndrome k y = 7)) ∨
       (k = 2 ∧ (syndrome k y = 5 ∨ syndrome k y = 7)) ∨ (k = 3 ∧ syndrome k y = 5)))) ∧
  (∀ (k : Nat) (y : Bits), y.length = k + 3 → syndrome k y ≠ 0 →
    ((decodeWord k y).branch = .corrected ↔ ∃ i, i < k + 3 ∧ syndrome k y = syndrome k (unitWord (k + 3) i))) ∧
  (allWords 4).countP (fun y => (decodeWord 1 y).branch = .uncorrected) = 6 ∧
  (allWords 5).countP (fun y => (decodeWord 2 y).branch = .uncorrected) = 8 ∧
  (allWords 6).countP (fun y => (decodeWord 3 y).branch = .uncorrected) = 8

/-! ### Repetition commands -/

/-- R110, R111: REP_ENC, its result, its frame and its two errors. -/
def Obligations.RepEncResult : Prop :=
  ∀ s : State, Invariant s →
    (s.cfgValid = false → exec .repEnc s = .next (endsWith .notConfigured s)) ∧
    (s.cfgValid = true → (s.params.bufBits < s.inLen.toNat ∨ s.params.bufBits < s.inLen.toNat * s.act.rep.toNat) →
      exec .repEnc s = .next (endsWith .length s)) ∧
    (s.cfgValid = true → s.inLen.toNat ≤ s.params.bufBits → s.inLen.toNat * s.act.rep.toNat ≤ s.params.bufBits →
      ∃ out, exec .repEnc s = .next (delivers out (s.inLen.toNat * s.act.rep.toNat) s) ∧ out.length = s.params.bufBits ∧
        (∀ i t, i < s.inLen.toNat → t < s.act.rep.toNat → out.getD (i * s.act.rep.toNat + t) false = inBit s i) ∧
        (∀ j, s.inLen.toNat * s.act.rep.toNat ≤ j → out.getD j false = false))

/-- R112 to R115: REP_DEC, its result, the short group, its frame and its two errors. -/
def Obligations.RepDecResult : Prop :=
  ∀ s : State, Invariant s →
    (s.cfgValid = false → exec .repDec s = .next (endsWith .notConfigured s)) ∧
    (s.cfgValid = true → s.params.bufBits < s.inLen.toNat → exec .repDec s = .next (endsWith .length s)) ∧
    (s.cfgValid = true → s.inLen.toNat ≤ s.params.bufBits →
      ∃ out g, exec .repDec s
          = .next { delivers out g s with short := decide (s.inLen.toNat % s.act.rep.toNat ≠ 0) } ∧
        out.length = s.params.bufBits ∧ s.inLen.toNat ≤ g * s.act.rep.toNat ∧
        (∀ q, s.inLen.toNat ≤ q * s.act.rep.toNat → g ≤ q) ∧ g ≤ s.inLen.toNat ∧
        (∀ j, j < g → out.getD j false
          = decide (min ((j + 1) * s.act.rep.toNat) s.inLen.toNat - j * s.act.rep.toNat
              < 2 * ((Finset.Ico (j * s.act.rep.toNat) (min ((j + 1) * s.act.rep.toNat) s.inLen.toNat)).filter
                  (fun b => inBit s b = true)).card)) ∧
        (∀ j, g ≤ j → out.getD j false = false))

/-- R116: with r = 3 and L a multiple of 3, an output bit is 1 exactly when at least 2 of the 3 bits of its group are 1. -/
def Obligations.MajorityOfThree : Prop :=
  ∀ s : State, Invariant s → s.cfgValid = true → s.act.rep = 3 → s.inLen.toNat ≤ s.params.bufBits → s.inLen.toNat % 3 = 0 →
    ∃ t, exec .repDec s = .next t ∧ t.outLen.toNat = s.inLen.toNat / 3 ∧ t.short = false ∧
      ∀ g, g < s.inLen.toNat / 3 → outBit t g
        = ((inBit s (3 * g) && inBit s (3 * g + 1)) || (inBit s (3 * g) && inBit s (3 * g + 2))
          || (inBit s (3 * g + 1) && inBit s (3 * g + 2)))

/-- R117: REP_ENC, MOVE, REP_DEC gives the input back, and a group with at most `e` flipped bits still decodes to its
original bit when 2·e < r for a group of 1s and when 2·e ≤ r for a group of 0s. -/
def Obligations.RepetitionRoundTrip : Prop :=
  (∀ s : State, Invariant s → s.cfgValid = true → s.inLen.toNat * s.act.rep.toNat ≤ s.params.bufBits →
    ∃ s1 s2 s3, issue .repEnc s = .next s1 ∧ issue .move s1 = .next s2 ∧ issue .repDec s2 = .next s3 ∧
      (∀ j, j < s.inLen.toNat → outBit s3 j = inBit s j) ∧ s3.outLen = s.inLen ∧ s3.short = false ∧ s3.err = .none) ∧
  ∀ (q : Bits) (b : Bool) (e : Nat), q.count (!b) ≤ e → (b = true → 2 * e < q.length) → (b = false → 2 * e ≤ q.length) →
    majority q = b

/-! ### Channel commands -/

/-- R161: the event is `u < P`; never for P = 0 and always for P = 65536, whatever the draw; exactly P of the 65536 draw
values make it happen. -/
def Obligations.BernoulliEvent : Prop :=
  (∀ (p : Prob) (u : Draw), bernoulli p u = true ↔ u.toNat < p.toNat) ∧
  (∀ u : Draw, bernoulli 0 u = false) ∧ (∀ u : Draw, bernoulli 65536 u = true) ∧
  ∀ p : Prob, p.toNat ≤ 65536 → (List.range 65536).countP (fun u => bernoulli p (BitVec.ofNat 16 u)) = p.toNat

/-- R162, R163: BSC_TX with its draws supplied, its result, its frame and its two errors. -/
def Obligations.BscTxResult : Prop :=
  ∀ s : State, Invariant s →
    (s.cfgValid = false → exec .bscTx s = .next (endsWith .notConfigured s)) ∧
    (s.cfgValid = true → s.params.bufBits < s.inLen.toNat → exec .bscTx s = .next (endsWith .length s)) ∧
    (s.cfgValid = true → s.inLen.toNat ≤ s.params.bufBits → s.inLen.toNat ≤ (drawsOf s).length →
      ∃ out, exec .bscTx s = .next (delivers out s.inLen.toNat { s with port := s.port.drop (s.inLen.toNat - s.taken.length) }) ∧
        out.length = s.params.bufBits ∧
        (∀ j, j < s.inLen.toNat → out.getD j false = (inBit s j).xor (decide (drawAt s j < s.act.pBsc.toNat))) ∧
        (∀ j, s.inLen.toNat ≤ j → out.getD j false = false))

/-- R164, R165, R170: GE_TX with its draws supplied: draw 2j decides the flip of bit j in the regime before the transition
that draw 2j+1 decides; the last regime is stored; frame and errors. -/
def Obligations.GeTxResult : Prop :=
  ∀ s : State, Invariant s →
    (s.cfgValid = false → exec .geTx s = .next (endsWith .notConfigured s)) ∧
    (s.cfgValid = true → s.params.bufBits < s.inLen.toNat → exec .geTx s = .next (endsWith .length s)) ∧
    (s.cfgValid = true → s.inLen.toNat ≤ s.params.bufBits → 2 * s.inLen.toNat ≤ (drawsOf s).length →
      ∃ (out : Bits) (st : Nat → Regime), exec .geTx s
          = .next { delivers out s.inLen.toNat { s with port := s.port.drop (2 * s.inLen.toNat - s.taken.length) } with
              geState := st s.inLen.toNat } ∧
        out.length = s.params.bufBits ∧ st 0 = s.geState ∧
        (∀ j, j < s.inLen.toNat →
          (st j = .good →
            out.getD j false = (inBit s j).xor (decide (drawAt s (2 * j) < s.act.pGood.toNat)) ∧
            st (j + 1) = if drawAt s (2 * j + 1) < s.act.pG2b.toNat then .bad else .good) ∧
          (st j = .bad →
            out.getD j false = (inBit s j).xor (decide (drawAt s (2 * j) < s.act.pBad.toNat)) ∧
            st (j + 1) = if drawAt s (2 * j + 1) < s.act.pB2g.toNat then .good else .bad)) ∧
        (∀ j, s.inLen.toNat ≤ j → out.getD j false = false))

/-- R167: when every probability a command uses is 0 or 65536, output and final state do not depend on the draws; the burst
example passes bit 0, inverts every later bit and ends in Bad. -/
def Obligations.DrawIndependentSettings : Prop :=
  (∀ (p : Prob) (xs : Bits) (us vs : List Draw), (p = 0 ∨ p = 65536) → xs.length ≤ us.length → xs.length ≤ vs.length →
    bsc p xs us = bsc p xs vs) ∧
  (∀ (c : CodeConfig) (st : Regime) (xs : Bits) (us vs : List Draw),
    (c.pGood = 0 ∨ c.pGood = 65536) → (c.pBad = 0 ∨ c.pBad = 65536) → (c.pG2b = 0 ∨ c.pG2b = 65536) →
    (c.pB2g = 0 ∨ c.pB2g = 65536) → 2 * xs.length ≤ us.length → 2 * xs.length ≤ vs.length →
    geRun c st xs us = geRun c st xs vs) ∧
  (∀ s : State, Invariant s → s.cfgValid = true → s.inLen.toNat ≤ s.params.bufBits → 2 * s.inLen.toNat ≤ (drawsOf s).length →
    s.act.pGood = 0 → s.act.pBad = 65536 → s.act.pG2b = 65536 → s.act.pB2g = 0 → s.geState = .good → 1 ≤ s.inLen.toNat →
    ∃ t, exec .geTx s = .next t ∧ t.geState = .bad ∧ outBit t 0 = inBit s 0 ∧
      ∀ j, 1 ≤ j → j < s.inLen.toNat → outBit t j = !inBit s j)

/-- R168: with A_PGOOD = 0, A_PBAD = 65536 and both transition probabilities 0, starting in Good, GE_TX flips no bit and
ends in Good, for every L and every draw sequence. -/
def Obligations.StateHold : Prop :=
  ∀ s : State, Invariant s → s.cfgValid = true → s.inLen.toNat ≤ s.params.bufBits → 2 * s.inLen.toNat ≤ (drawsOf s).length →
    s.act.pGood = 0 → s.act.pBad = 65536 → s.act.pG2b = 0 → s.act.pB2g = 0 → s.geState = .good →
    ∃ t, exec .geTx s = .next t ∧ t.geState = .good ∧ ∀ j, j < s.inLen.toNat → outBit t j = inBit s j

/-! ### The host bus -/

/-- R66, R208: an access that is misaligned or not 32 bits wide changes no state and gets ERROR, a read so answered
returns 0; every other access gets OK. -/
def Obligations.IllegalAccessGetsError : Prop :=
  ∀ (s : State) (a : BusAccess),
    ((a.width ≠ 32 ∨ a.off.toNat % 4 ≠ 0) → busAccess s a = { s with resp := some { error := true, data := 0 } }) ∧
    (a.width = 32 → a.off.toNat % 4 = 0 → ∃ v, (busAccess s a).resp = some { error := false, data := v })

/-- R67: a read of a reserved location returns 0, a write to it is ignored, both get OK. -/
def Obligations.ReservedLocationsReadZeroIgnoreWrites : Prop :=
  ∀ (s : State) (off : Offset) (v : Word), s.params.wf = true → reservedOff s.params.bufBits off →
    busAccess s (.read 32 off) = { s with resp := some { error := false, data := 0 } } ∧
    busAccess s (.write 32 off v) = okWrite s

/-- R63: an RW register keeps the written bits of its fields and reads 0 in every reserved bit, and an idle write to it changes
nothing else; an RO register reads its field and 0 in every reserved bit; while BUSY = 1 a write to an RW register other than
INT_EN is dropped. -/
def Obligations.RwRegistersKeepTheirFields : Prop :=
  (∀ (s : State) (v : Word), s.busy = false →
    busAccess s (.write 32 0x008 v) = okWrite { s with doneIe := v.getLsbD 0 } ∧
    busAccess s (.write 32 0x014 v) = okWrite { s with inLen := v.extractLsb' 0 16 } ∧
    busAccess s (.write 32 0x020 v) = okWrite { s with cfg := { s.cfg with n := v.extractLsb' 0 9 } } ∧
    busAccess s (.write 32 0x024 v) = okWrite { s with cfg := { s.cfg with k := v.extractLsb' 0 9 } } ∧
    busAccess s (.write 32 0x028 v) = okWrite { s with cfg := { s.cfg with rep := v.extractLsb' 0 16 } } ∧
    busAccess s (.write 32 0x02C v) = okWrite { s with cfg := { s.cfg with pBsc := v.extractLsb' 0 17 } } ∧
    busAccess s (.write 32 0x030 v) = okWrite { s with cfg := { s.cfg with pGood := v.extractLsb' 0 17 } } ∧
    busAccess s (.write 32 0x034 v) = okWrite { s with cfg := { s.cfg with pBad := v.extractLsb' 0 17 } } ∧
    busAccess s (.write 32 0x038 v) = okWrite { s with cfg := { s.cfg with pG2b := v.extractLsb' 0 17 } } ∧
    busAccess s (.write 32 0x03C v) = okWrite { s with cfg := { s.cfg with pB2g := v.extractLsb' 0 17 } }) ∧
  ∀ (s : State) (v : Word), ∀ r ∈ rwRegisters,
    (s.busy = false →
      (busAccess (busAccess s (.write 32 r.1 v)) (.read 32 r.1)).resp = some { error := false, data := v &&& r.2 }) ∧
    (s.busy = true → r.1 ≠ 0x008 → busAccess s (.write 32 r.1 v) = okWrite { s with ovr := true }) ∧
    (s.busy = false →
      (busAccess s (.read 32 0x00C)).resp = some { error := false, data := 0#29 ++ s.synd } ∧
      (busAccess s (.read 32 0x010)).resp = some { error := false, data := 0#24 ++ s.corrPos } ∧
      (busAccess s (.read 32 0x018)).resp = some { error := false, data := 0#16 ++ s.outLen })

/-- R64: writes to SYND, CORR_POS, OUT_LEN and the OUT window change no state; a read of CMD returns 0. -/
def Obligations.ReadOnlyLocationsIgnoreWrites : Prop :=
  ∀ (s : State) (v : Word), s.params.wf = true →
    busAccess s (.write 32 0x00C v) = okWrite s ∧ busAccess s (.write 32 0x010 v) = okWrite s ∧
    busAccess s (.write 32 0x018 v) = okWrite s ∧
    (∀ w, w < s.params.bufBits / 32 → busAccess s (.write 32 (windowOff 0x2000 w) v) = okWrite s) ∧
    busAccess s (.read 32 0x000) = { s with resp := some { error := false, data := 0 } }

/-- R65: a write to STATUS clears DONE by bit 1 and OVR by bit 10 whatever BUSY is; a write to CMD submits; a write to IN
word w while BUSY = 0 sets `IN[32·w + b]` to bit b and no other bit. -/
def Obligations.StatusCmdAndInWindowWrites : Prop :=
  ∀ (s : State) (v : Word), Invariant s →
    busAccess s (.write 32 0x004 v)
      = okWrite { s with done := s.done && !v.getLsbD 1, ovr := s.ovr && !v.getLsbD 10 } ∧
    (s.busy = false → (busAccess s (.write 32 0x000 v)).inflight = some { word := v, taken := [] }) ∧
    (∀ w, w < s.params.bufBits / 32 → s.busy = false →
      ∃ buf, busAccess s (.write 32 (windowOff 0x1000 w) v) = okWrite { s with mem := { s.mem with inBuf := buf } } ∧
        buf.length = s.params.bufBits ∧ (∀ b, b < 32 → buf.getD (32 * w + b) false = v.getLsbD b) ∧
        (∀ j, j < 32 * w ∨ 32 * w + 32 ≤ j → buf.getD j false = inBit s j))

/-- R61: bit b of the word read at IN (OUT) word w is `IN[32·w + b]` (`OUT[32·w + b]`). -/
def Obligations.WindowBitOrder : Prop :=
  ∀ (s : State) (w : Nat), s.params.wf = true → s.busy = false → w < s.params.bufBits / 32 →
    (∃ v, (busAccess s (.read 32 (windowOff 0x1000 w))).resp = some { error := false, data := v } ∧
      ∀ b, b < 32 → v.getLsbD b = inBit s (32 * w + b)) ∧
    (∃ v, (busAccess s (.read 32 (windowOff 0x2000 w))).resp = some { error := false, data := v } ∧
      ∀ b, b < 32 → v.getLsbD b = outBit s (32 * w + b))

/-- R240: which writes are dropped while BUSY = 1, which take effect and which are ignored. -/
def Obligations.WritesWhileBusy : Prop :=
  ∀ (s : State) (v : Word), s.params.wf = true → s.busy = true →
    (∀ off ∈ [(0x000 : Offset), 0x014, 0x020, 0x024, 0x028, 0x02C, 0x030, 0x034, 0x038, 0x03C],
      busAccess s (.write 32 off v) = okWrite { s with ovr := true }) ∧
    (∀ w, w < s.params.bufBits / 32 → busAccess s (.write 32 (windowOff 0x1000 w) v) = okWrite { s with ovr := true }) ∧
    busAccess s (.write 32 0x004 v) = okWrite { s with done := s.done && !v.getLsbD 1, ovr := s.ovr && !v.getLsbD 10 } ∧
    busAccess s (.write 32 0x008 v) = okWrite { s with doneIe := v.getLsbD 0 } ∧
    (∀ off ∈ [(0x00C : Offset), 0x010, 0x018], busAccess s (.write 32 off v) = okWrite s) ∧
    (∀ w, w < s.params.bufBits / 32 → busAccess s (.write 32 (windowOff 0x2000 w) v) = okWrite s) ∧
    (∀ off, reservedOff s.params.bufBits off → busAccess s (.write 32 off v) = okWrite s)

/-- R69: a read has no side effect on any location of the block; only the response and the model's counter move. -/
def Obligations.ReadsHaveNoSideEffect : Prop :=
  ∀ (s : State) (bits : Nat) (off : Offset), ∃ r n,
    busAccess s (.read bits off) = { s with resp := some r, free := n }

/-- R242: while BUSY = 1 the reads of IN, OUT, IN_LEN, OUT_LEN, SYND and CORR_POS and the STATUS fields [9:5] answer with a
free value, which nothing constrains; BUSY reads 1, DONE and ERR read 0 and OVR its value; INT_EN, CMD, the CFG_ and P_
registers and reserved locations read as they do when idle; no read has an effect on the block.
THE MODEL'S CHOICE: that such a read is one whole free word, reserved bits included (log entry 9, DEDUCED), and that the
model's own counter moves on by one (log entry 10, DESIGN CHOICE). -/
def Obligations.ReadsWhileBusy : Prop :=
  ∀ s : State, Invariant s → s.busy = true →
    (∀ off ∈ [(0x00C : Offset), 0x010, 0x014, 0x018],
      busAccess s (.read 32 off) = { s with resp := some { error := false, data := Config.freeRead s.free }, free := s.free + 1 }) ∧
    (∀ w, w < s.params.bufBits / 32 → ∀ start ∈ [0x1000, 0x2000], busAccess s (.read 32 (windowOff start w))
      = { s with resp := some { error := false, data := Config.freeRead s.free }, free := s.free + 1 }) ∧
    (∃ v, busAccess s (.read 32 0x004) = { s with resp := some { error := false, data := v }, free := s.free + 1 } ∧
      v.extractLsb' 5 5 = (Config.freeRead s.free).extractLsb' 5 5 ∧ v.getLsbD 0 = true ∧ v.getLsbD 1 = false ∧ v.extractLsb' 2 3 = 0 ∧ v.getLsbD 10 = s.ovr ∧ v.extractLsb' 11 21 = 0) ∧
    (busAccess s (.read 32 0x008)).resp = some { error := false, data := (BitVec.ofBool s.doneIe).setWidth 32 } ∧
    (busAccess s (.read 32 0x000)).resp = some { error := false, data := 0 } ∧
    (busAccess s (.read 32 0x020)).resp = some { error := false, data := s.cfg.n.setWidth 32 } ∧
    (busAccess s (.read 32 0x024)).resp = some { error := false, data := s.cfg.k.setWidth 32 } ∧
    (busAccess s (.read 32 0x028)).resp = some { error := false, data := s.cfg.rep.setWidth 32 } ∧
    (busAccess s (.read 32 0x02C)).resp = some { error := false, data := s.cfg.pBsc.setWidth 32 } ∧
    (busAccess s (.read 32 0x030)).resp = some { error := false, data := s.cfg.pGood.setWidth 32 } ∧
    (busAccess s (.read 32 0x034)).resp = some { error := false, data := s.cfg.pBad.setWidth 32 } ∧
    (busAccess s (.read 32 0x038)).resp = some { error := false, data := s.cfg.pG2b.setWidth 32 } ∧
    (busAccess s (.read 32 0x03C)).resp = some { error := false, data := s.cfg.pB2g.setWidth 32 } ∧
    ∀ off, reservedOff s.params.bufBits off → (busAccess s (.read 32 off)).resp = some { error := false, data := 0 }

/-- R24: the layout of STATUS when BUSY = 0; a write to STATUS affects only DONE and OVR; STATUS is 0 after reset. -/
def Obligations.StatusLayout : Prop :=
  (∀ (s : State) (w : Word), busAccess s (.write 32 0x004 w)
    = okWrite { s with done := s.done && !w.getLsbD 1, ovr := s.ovr && !w.getLsbD 10 }) ∧
  State.reset.statusWord = 0 ∧
  ∀ s : State, s.busy = false → ∃ v, (busAccess s (.read 32 0x004)).resp = some { error := false, data := v } ∧
    v.getLsbD 0 = false ∧ v.getLsbD 1 = s.done ∧
    (v.extractLsb' 2 3).toNat = (match s.err with
      | .none => 0 | .illegalCmd => 1 | .notConfigured => 2 | .length => 3 | .config => 4) ∧
    (v.extractLsb' 5 2).toNat = (match s.branch with
      | .none => 0 | .clean => 1 | .corrected => 2 | .uncorrected => 3) ∧
    v.getLsbD 7 = s.short ∧ v.getLsbD 8 = decide (s.geState = .bad) ∧ v.getLsbD 9 = s.cfgValid ∧ v.getLsbD 10 = s.ovr ∧
    v.extractLsb' 11 21 = 0

/-- R50: IRQ is the AND of STATUS.DONE and INT_EN.DONE_IE as the bus reads them, is 0 after reset and while BUSY = 1. -/
def Obligations.IrqIsDoneAndEnable : Prop :=
  State.reset.irq = false ∧ ∀ s : State, s.irq = ((readLoc s .status).getLsbD 1 && (readLoc s .intEn).getLsbD 0) ∧
    (Invariant s → s.busy = true → s.irq = false)

/-- R26, R211: when a completion and a write that clears DONE happen in the same cycle, DONE is 1. -/
def Obligations.CompletionWinsOverClear : Prop :=
  ∀ (s t : State) (v : Word) (rest : List HostLine) (ms : List Move), s.sched = .hostWithSeq :: ms → s.rstPin = false →
    s.host = Script.wr 0x004 v :: rest → s.busy = true → step s = .next t → t.busy = false → t.done = true

/-! ### Whole-machine rules -/

/-- R48: every command but CONFIG reads its parameters from the active configuration, never from the CFG_ and P_ registers. -/
def Obligations.CommandsIgnoreConfigRegisters : Prop :=
  ∀ (i : Instr) (s t : State) (c : CodeConfig), i ≠ .config → exec i s = .next t →
    exec i { s with cfg := c } = .next { t with cfg := c }

/-- R111, R133: a data command does not read the IN bits beyond its input sequence. -/
def Obligations.InputsBeyondLengthNotRead : Prop :=
  ∀ (i : Instr) (s t : State) (buf : Bits), isData i = true → buf.take s.inLen.toNat = s.mem.inBuf.take s.inLen.toNat →
    exec i s = .next t →
    exec i { s with mem := { s.mem with inBuf := buf } } = .next { t with mem := { t.mem with inBuf := buf } }

/-- The invariant holds right after reset, and the reset state is a clean start (R235). -/
def Obligations.ResetMeetsInvariant : Prop := Invariant State.reset ∧ CleanStart State.reset

/-- Every step of every agent keeps the invariant. -/
def Obligations.StepKeepsInvariant : Prop := ∀ s t : State, Invariant s → step s = .next t → Invariant t

/-- R230, R232: asserting reset puts the block in its reset state from any state, a running command is abandoned, and the
release changes no register.
THE MODEL'S CHOICE: draws supplied and not taken stay in the port (log entry 4, DESIGN CHOICE), and the buffers and the active
configuration, unspecified in R231, take the model's free values at the assertion (log entries 7, 8, 13, DESIGN CHOICE). -/
def Obligations.ResetAbandonsAndClears : Prop :=
  ∀ (s : State) (ms : List Move), s.sched = .assertReset :: ms →
    ∃ t, step s = .next t ∧ t.busy = false ∧ t.done = false ∧ t.err = .none ∧ t.branch = .none ∧ t.short = false ∧
      t.geState = .good ∧ t.cfgValid = false ∧ t.ovr = false ∧ t.doneIe = false ∧ t.synd = 0 ∧ t.corrPos = 0 ∧
      t.inLen = 0 ∧ t.outLen = 0 ∧ t.cfg = CodeConfig.zero ∧ t.irq = false ∧ t.port = s.port ∧ t.sched = ms ∧
      t.mem = Memory.afterReset s.params.bufBits s.free ∧ t.act = Config.resetActive s.free ∧
      ∀ ms', ms = .releaseReset :: ms' → step t = .next { t with sched := ms', rstPin := false }

/-- R48, R231: the active configuration changes only when CONFIG completes, to the CFG_ and P_ registers, or at reset. -/
def Obligations.OnlyConfigWritesActive : Prop :=
  ∀ s t : State, step s = .next t → t.act ≠ s.act →
    (∃ f, s.inflight = some f ∧ decode f.word = .instr .config ∧ t.busy = false ∧ t.cfgValid = true ∧ t.act = s.cfg) ∨
    s.sched.head? = some .assertReset

/-- R31: a successful CONFIG, whose values passed the checks, sets CFG_VALID and a CONFIG that raises CONFIG clears it; in any
step nothing else but reset changes it; it is 0 after reset. -/
def Obligations.CfgValidWriters : Prop :=
  State.reset.cfgValid = false ∧
  (∀ s t : State, exec .config s = .next t →
    (t.err = .none ∧ t.cfgValid = true ∧ configLegal t.act) ∨ (t.err = .config ∧ t.cfgValid = false)) ∧
  ∀ s t : State, step s = .next t →
    (s.cfgValid = false → t.cfgValid = true →
      ∃ f, s.inflight = some f ∧ decode f.word = .instr .config ∧ t.err = .none ∧ configLegal t.act) ∧
    (s.cfgValid = true → t.cfgValid = false →
      (∃ f, s.inflight = some f ∧ decode f.word = .instr .config ∧ t.err = .config) ∨ s.sched.head? = some .assertReset)

/-- R29, R166: GE_STATE changes only when GE_TX, a successful CONFIG or CH_RESET completes, or at reset, and only GE_TX
leaves it Bad. -/
def Obligations.GeStateWriters : Prop :=
  ∀ s t : State, step s = .next t → t.geState ≠ s.geState →
    (∃ f, s.inflight = some f ∧ t.busy = false ∧ t.err = .none ∧ decode f.word = .instr .geTx) ∨
    (t.geState = .good ∧ ∃ f, s.inflight = some f ∧ t.busy = false ∧ t.err = .none ∧
      (decode f.word = .instr .config ∨ decode f.word = .instr .chReset)) ∨
    (t.geState = .good ∧ s.sched.head? = some .assertReset)

/-- R34, R35, R37, R41: SYND and CORR_POS are written only by a BCH_DEC without error, OUT and OUT_LEN only by a data
command without error, or at reset. -/
def Obligations.ResultRegisterWriters : Prop :=
  ∀ s t : State, step s = .next t → s.sched.head? ≠ some .assertReset →
    (t.synd ≠ s.synd ∨ t.corrPos ≠ s.corrPos →
      ∃ f, s.inflight = some f ∧ decode f.word = .instr .bchDec ∧ t.busy = false ∧ t.err = .none) ∧
    (t.mem.outBuf ≠ s.mem.outBuf ∨ t.outLen ≠ s.outLen →
      ∃ f i, s.inflight = some f ∧ decode f.word = .instr i ∧ isData i = true ∧ t.busy = false ∧ t.err = .none)

/-- R40, R71, R240: while a command is in flight IN and IN_LEN keep their values until the command completes, and only MOVE
changes them then. -/
def Obligations.InputsStableWhileBusy : Prop :=
  ∀ s t : State, step s = .next t → s.busy = true → s.sched.head? ≠ some .assertReset →
    (t.mem.inBuf ≠ s.mem.inBuf ∨ t.inLen ≠ s.inLen →
      ∃ f, s.inflight = some f ∧ decode f.word = .instr .move ∧ t.busy = false) ∧ t.cfg = s.cfg

/-- No step is refused, and a step faults exactly when the reset input is asserted, the move is the host's and its next line
makes a bus access (R230, U8).
THE MODEL'S CHOICE: to stop there at all (log entry 12, DEDUCED), and that an empty schedule with no command in flight is the
host's move (log entry 2, DESIGN CHOICE). -/
def Obligations.StepFaultsOnlyInReset : Prop :=
  ∀ s : State, (∀ r, step s ≠ .refused r) ∧
    ∀ f, step s = .fault f ↔
      s.rstPin = true ∧ f = .accessInReset ∧ (∃ l rest, s.host = l :: rest ∧ l.onBus = true) ∧
        (s.sched.head? = some .host ∨ s.sched.head? = some .hostWithSeq ∨ (s.sched = [] ∧ s.busy = false))

/-- R241: an access that keeps the host's duties gets OK, drops nothing, and a read other than one of STATUS returns the value
its location's rule gives; and no access at all, dutiful or not, changes the running command or what it reads. -/
def Obligations.HostDutyAndUncorruptedCommands : Prop :=
  (∀ (s : State) (a : BusAccess), hostAccessSafe s a = true →
    ((busAccess s a).ovr = true → s.ovr = true) ∧ (∃ v, (busAccess s a).resp = some { error := false, data := v }) ∧
    (∀ off, a = .read 32 off → locate s.params.bufBits off ≠ .status →
      (busAccess s a).resp = some { error := false, data := readLoc s (locate s.params.bufBits off) })) ∧
  ∀ (s : State) (a : BusAccess), s.busy = true →
    (busAccess s a).inflight = s.inflight ∧ (busAccess s a).mem = s.mem ∧ (busAccess s a).inLen = s.inLen ∧
    (busAccess s a).outLen = s.outLen ∧ (busAccess s a).cfg = s.cfg ∧ (busAccess s a).act = s.act ∧
    (busAccess s a).cfgValid = s.cfgValid ∧ (busAccess s a).geState = s.geState
end

