-- ==== Sys2Proof/Laws/State.lean ====
section
/-! SUPPORT. What each shared update of State does to each field: one lemma per field per update, true by rfl. -/

namespace Sys2Proof.Machine

@[simp] theorem accept_params (w : Word) (s : State) : (accept w s).params = s.params := rfl
@[simp] theorem accept_inflight (w : Word) (s : State) : (accept w s).inflight = some { word := w, taken := [] } := rfl
@[simp] theorem accept_done (w : Word) (s : State) : (accept w s).done = false := rfl
@[simp] theorem accept_err (w : Word) (s : State) : (accept w s).err = .none := rfl
@[simp] theorem accept_branch (w : Word) (s : State) : (accept w s).branch = .none := rfl
@[simp] theorem accept_short (w : Word) (s : State) : (accept w s).short = false := rfl
@[simp] theorem accept_geState (w : Word) (s : State) : (accept w s).geState = s.geState := rfl
@[simp] theorem accept_cfgValid (w : Word) (s : State) : (accept w s).cfgValid = s.cfgValid := rfl
@[simp] theorem accept_ovr (w : Word) (s : State) : (accept w s).ovr = s.ovr := rfl
@[simp] theorem accept_doneIe (w : Word) (s : State) : (accept w s).doneIe = s.doneIe := rfl
@[simp] theorem accept_synd (w : Word) (s : State) : (accept w s).synd = s.synd := rfl
@[simp] theorem accept_corrPos (w : Word) (s : State) : (accept w s).corrPos = s.corrPos := rfl
@[simp] theorem accept_inLen (w : Word) (s : State) : (accept w s).inLen = s.inLen := rfl
@[simp] theorem accept_outLen (w : Word) (s : State) : (accept w s).outLen = s.outLen := rfl
@[simp] theorem accept_cfg (w : Word) (s : State) : (accept w s).cfg = s.cfg := rfl
@[simp] theorem accept_act (w : Word) (s : State) : (accept w s).act = s.act := rfl
@[simp] theorem accept_mem (w : Word) (s : State) : (accept w s).mem = s.mem := rfl
@[simp] theorem accept_rstPin (w : Word) (s : State) : (accept w s).rstPin = s.rstPin := rfl
@[simp] theorem accept_host (w : Word) (s : State) : (accept w s).host = s.host := rfl
@[simp] theorem accept_resp (w : Word) (s : State) : (accept w s).resp = s.resp := rfl
@[simp] theorem accept_reads (w : Word) (s : State) : (accept w s).reads = s.reads := rfl
@[simp] theorem accept_port (w : Word) (s : State) : (accept w s).port = s.port := rfl
@[simp] theorem accept_sched (w : Word) (s : State) : (accept w s).sched = s.sched := rfl
@[simp] theorem accept_free (w : Word) (s : State) : (accept w s).free = s.free := rfl

@[simp] theorem finish_params (e : ErrCode) (s : State) : (finish e s).params = s.params := rfl
@[simp] theorem finish_inflight (e : ErrCode) (s : State) : (finish e s).inflight = none := rfl
@[simp] theorem finish_done (e : ErrCode) (s : State) : (finish e s).done = true := rfl
@[simp] theorem finish_err (e : ErrCode) (s : State) : (finish e s).err = e := rfl
@[simp] theorem finish_branch (e : ErrCode) (s : State) : (finish e s).branch = s.branch := rfl
@[simp] theorem finish_short (e : ErrCode) (s : State) : (finish e s).short = s.short := rfl
@[simp] theorem finish_geState (e : ErrCode) (s : State) : (finish e s).geState = s.geState := rfl
@[simp] theorem finish_cfgValid (e : ErrCode) (s : State) : (finish e s).cfgValid = s.cfgValid := rfl
@[simp] theorem finish_ovr (e : ErrCode) (s : State) : (finish e s).ovr = s.ovr := rfl
@[simp] theorem finish_doneIe (e : ErrCode) (s : State) : (finish e s).doneIe = s.doneIe := rfl
@[simp] theorem finish_synd (e : ErrCode) (s : State) : (finish e s).synd = s.synd := rfl
@[simp] theorem finish_corrPos (e : ErrCode) (s : State) : (finish e s).corrPos = s.corrPos := rfl
@[simp] theorem finish_inLen (e : ErrCode) (s : State) : (finish e s).inLen = s.inLen := rfl
@[simp] theorem finish_outLen (e : ErrCode) (s : State) : (finish e s).outLen = s.outLen := rfl
@[simp] theorem finish_cfg (e : ErrCode) (s : State) : (finish e s).cfg = s.cfg := rfl
@[simp] theorem finish_act (e : ErrCode) (s : State) : (finish e s).act = s.act := rfl
@[simp] theorem finish_mem (e : ErrCode) (s : State) : (finish e s).mem = s.mem := rfl
@[simp] theorem finish_rstPin (e : ErrCode) (s : State) : (finish e s).rstPin = s.rstPin := rfl
@[simp] theorem finish_host (e : ErrCode) (s : State) : (finish e s).host = s.host := rfl
@[simp] theorem finish_resp (e : ErrCode) (s : State) : (finish e s).resp = s.resp := rfl
@[simp] theorem finish_reads (e : ErrCode) (s : State) : (finish e s).reads = s.reads := rfl
@[simp] theorem finish_port (e : ErrCode) (s : State) : (finish e s).port = s.port := rfl
@[simp] theorem finish_sched (e : ErrCode) (s : State) : (finish e s).sched = s.sched := rfl
@[simp] theorem finish_free (e : ErrCode) (s : State) : (finish e s).free = s.free := rfl

@[simp] theorem complete_params (s : State) : (complete s).params = s.params := rfl
@[simp] theorem complete_inflight (s : State) : (complete s).inflight = none := rfl
@[simp] theorem complete_done (s : State) : (complete s).done = true := rfl
@[simp] theorem complete_err (s : State) : (complete s).err = .none := rfl
@[simp] theorem complete_branch (s : State) : (complete s).branch = s.branch := rfl
@[simp] theorem complete_short (s : State) : (complete s).short = s.short := rfl
@[simp] theorem complete_geState (s : State) : (complete s).geState = s.geState := rfl
@[simp] theorem complete_cfgValid (s : State) : (complete s).cfgValid = s.cfgValid := rfl
@[simp] theorem complete_ovr (s : State) : (complete s).ovr = s.ovr := rfl
@[simp] theorem complete_doneIe (s : State) : (complete s).doneIe = s.doneIe := rfl
@[simp] theorem complete_synd (s : State) : (complete s).synd = s.synd := rfl
@[simp] theorem complete_corrPos (s : State) : (complete s).corrPos = s.corrPos := rfl
@[simp] theorem complete_inLen (s : State) : (complete s).inLen = s.inLen := rfl
@[simp] theorem complete_outLen (s : State) : (complete s).outLen = s.outLen := rfl
@[simp] theorem complete_cfg (s : State) : (complete s).cfg = s.cfg := rfl
@[simp] theorem complete_act (s : State) : (complete s).act = s.act := rfl
@[simp] theorem complete_mem (s : State) : (complete s).mem = s.mem := rfl
@[simp] theorem complete_rstPin (s : State) : (complete s).rstPin = s.rstPin := rfl
@[simp] theorem complete_host (s : State) : (complete s).host = s.host := rfl
@[simp] theorem complete_resp (s : State) : (complete s).resp = s.resp := rfl
@[simp] theorem complete_reads (s : State) : (complete s).reads = s.reads := rfl
@[simp] theorem complete_port (s : State) : (complete s).port = s.port := rfl
@[simp] theorem complete_sched (s : State) : (complete s).sched = s.sched := rfl
@[simp] theorem complete_free (s : State) : (complete s).free = s.free := rfl

@[simp] theorem raise_params (e : ErrCode) (s : State) : (raise e s).params = s.params := rfl
@[simp] theorem raise_inflight (e : ErrCode) (s : State) : (raise e s).inflight = none := rfl
@[simp] theorem raise_done (e : ErrCode) (s : State) : (raise e s).done = true := rfl
@[simp] theorem raise_err (e : ErrCode) (s : State) : (raise e s).err = e := rfl
@[simp] theorem raise_branch (e : ErrCode) (s : State) : (raise e s).branch = s.branch := rfl
@[simp] theorem raise_short (e : ErrCode) (s : State) : (raise e s).short = s.short := rfl
@[simp] theorem raise_geState (e : ErrCode) (s : State) : (raise e s).geState = s.geState := rfl
@[simp] theorem raise_cfgValid (e : ErrCode) (s : State) : (raise e s).cfgValid = s.cfgValid := rfl
@[simp] theorem raise_ovr (e : ErrCode) (s : State) : (raise e s).ovr = s.ovr := rfl
@[simp] theorem raise_doneIe (e : ErrCode) (s : State) : (raise e s).doneIe = s.doneIe := rfl
@[simp] theorem raise_synd (e : ErrCode) (s : State) : (raise e s).synd = s.synd := rfl
@[simp] theorem raise_corrPos (e : ErrCode) (s : State) : (raise e s).corrPos = s.corrPos := rfl
@[simp] theorem raise_inLen (e : ErrCode) (s : State) : (raise e s).inLen = s.inLen := rfl
@[simp] theorem raise_outLen (e : ErrCode) (s : State) : (raise e s).outLen = s.outLen := rfl
@[simp] theorem raise_cfg (e : ErrCode) (s : State) : (raise e s).cfg = s.cfg := rfl
@[simp] theorem raise_act (e : ErrCode) (s : State) : (raise e s).act = s.act := rfl
@[simp] theorem raise_mem (e : ErrCode) (s : State) : (raise e s).mem = s.mem := rfl
@[simp] theorem raise_rstPin (e : ErrCode) (s : State) : (raise e s).rstPin = s.rstPin := rfl
@[simp] theorem raise_host (e : ErrCode) (s : State) : (raise e s).host = s.host := rfl
@[simp] theorem raise_resp (e : ErrCode) (s : State) : (raise e s).resp = s.resp := rfl
@[simp] theorem raise_reads (e : ErrCode) (s : State) : (raise e s).reads = s.reads := rfl
@[simp] theorem raise_port (e : ErrCode) (s : State) : (raise e s).port = s.port := rfl
@[simp] theorem raise_sched (e : ErrCode) (s : State) : (raise e s).sched = s.sched := rfl
@[simp] theorem raise_free (e : ErrCode) (s : State) : (raise e s).free = s.free := rfl

@[simp] theorem writeOut_params (xs : Bits) (s : State) : (writeOut xs s).params = s.params := rfl
@[simp] theorem writeOut_inflight (xs : Bits) (s : State) : (writeOut xs s).inflight = s.inflight := rfl
@[simp] theorem writeOut_done (xs : Bits) (s : State) : (writeOut xs s).done = s.done := rfl
@[simp] theorem writeOut_err (xs : Bits) (s : State) : (writeOut xs s).err = s.err := rfl
@[simp] theorem writeOut_branch (xs : Bits) (s : State) : (writeOut xs s).branch = s.branch := rfl
@[simp] theorem writeOut_short (xs : Bits) (s : State) : (writeOut xs s).short = s.short := rfl
@[simp] theorem writeOut_geState (xs : Bits) (s : State) : (writeOut xs s).geState = s.geState := rfl
@[simp] theorem writeOut_cfgValid (xs : Bits) (s : State) : (writeOut xs s).cfgValid = s.cfgValid := rfl
@[simp] theorem writeOut_ovr (xs : Bits) (s : State) : (writeOut xs s).ovr = s.ovr := rfl
@[simp] theorem writeOut_doneIe (xs : Bits) (s : State) : (writeOut xs s).doneIe = s.doneIe := rfl
@[simp] theorem writeOut_synd (xs : Bits) (s : State) : (writeOut xs s).synd = s.synd := rfl
@[simp] theorem writeOut_corrPos (xs : Bits) (s : State) : (writeOut xs s).corrPos = s.corrPos := rfl
@[simp] theorem writeOut_inLen (xs : Bits) (s : State) : (writeOut xs s).inLen = s.inLen := rfl
@[simp] theorem writeOut_outLen (xs : Bits) (s : State) : (writeOut xs s).outLen = BitVec.ofNat 16 xs.length := rfl
@[simp] theorem writeOut_cfg (xs : Bits) (s : State) : (writeOut xs s).cfg = s.cfg := rfl
@[simp] theorem writeOut_act (xs : Bits) (s : State) : (writeOut xs s).act = s.act := rfl
@[simp] theorem writeOut_mem (xs : Bits) (s : State) : (writeOut xs s).mem = { s.mem with outBuf := padTo s.params.bufBits xs } := rfl
@[simp] theorem writeOut_rstPin (xs : Bits) (s : State) : (writeOut xs s).rstPin = s.rstPin := rfl
@[simp] theorem writeOut_host (xs : Bits) (s : State) : (writeOut xs s).host = s.host := rfl
@[simp] theorem writeOut_resp (xs : Bits) (s : State) : (writeOut xs s).resp = s.resp := rfl
@[simp] theorem writeOut_reads (xs : Bits) (s : State) : (writeOut xs s).reads = s.reads := rfl
@[simp] theorem writeOut_port (xs : Bits) (s : State) : (writeOut xs s).port = s.port := rfl
@[simp] theorem writeOut_sched (xs : Bits) (s : State) : (writeOut xs s).sched = s.sched := rfl
@[simp] theorem writeOut_free (xs : Bits) (s : State) : (writeOut xs s).free = s.free := rfl

@[simp] theorem setCfg_params (s : State) (c : CodeConfig) : (s.setCfg c).params = s.params := rfl
@[simp] theorem setCfg_inflight (s : State) (c : CodeConfig) : (s.setCfg c).inflight = s.inflight := rfl
@[simp] theorem setCfg_done (s : State) (c : CodeConfig) : (s.setCfg c).done = s.done := rfl
@[simp] theorem setCfg_err (s : State) (c : CodeConfig) : (s.setCfg c).err = s.err := rfl
@[simp] theorem setCfg_branch (s : State) (c : CodeConfig) : (s.setCfg c).branch = s.branch := rfl
@[simp] theorem setCfg_short (s : State) (c : CodeConfig) : (s.setCfg c).short = s.short := rfl
@[simp] theorem setCfg_geState (s : State) (c : CodeConfig) : (s.setCfg c).geState = s.geState := rfl
@[simp] theorem setCfg_cfgValid (s : State) (c : CodeConfig) : (s.setCfg c).cfgValid = s.cfgValid := rfl
@[simp] theorem setCfg_ovr (s : State) (c : CodeConfig) : (s.setCfg c).ovr = s.ovr := rfl
@[simp] theorem setCfg_doneIe (s : State) (c : CodeConfig) : (s.setCfg c).doneIe = s.doneIe := rfl
@[simp] theorem setCfg_synd (s : State) (c : CodeConfig) : (s.setCfg c).synd = s.synd := rfl
@[simp] theorem setCfg_corrPos (s : State) (c : CodeConfig) : (s.setCfg c).corrPos = s.corrPos := rfl
@[simp] theorem setCfg_inLen (s : State) (c : CodeConfig) : (s.setCfg c).inLen = s.inLen := rfl
@[simp] theorem setCfg_outLen (s : State) (c : CodeConfig) : (s.setCfg c).outLen = s.outLen := rfl
@[simp] theorem setCfg_cfg (s : State) (c : CodeConfig) : (s.setCfg c).cfg = c := rfl
@[simp] theorem setCfg_act (s : State) (c : CodeConfig) : (s.setCfg c).act = s.act := rfl
@[simp] theorem setCfg_mem (s : State) (c : CodeConfig) : (s.setCfg c).mem = s.mem := rfl
@[simp] theorem setCfg_rstPin (s : State) (c : CodeConfig) : (s.setCfg c).rstPin = s.rstPin := rfl
@[simp] theorem setCfg_host (s : State) (c : CodeConfig) : (s.setCfg c).host = s.host := rfl
@[simp] theorem setCfg_resp (s : State) (c : CodeConfig) : (s.setCfg c).resp = s.resp := rfl
@[simp] theorem setCfg_reads (s : State) (c : CodeConfig) : (s.setCfg c).reads = s.reads := rfl
@[simp] theorem setCfg_port (s : State) (c : CodeConfig) : (s.setCfg c).port = s.port := rfl
@[simp] theorem setCfg_sched (s : State) (c : CodeConfig) : (s.setCfg c).sched = s.sched := rfl
@[simp] theorem setCfg_free (s : State) (c : CodeConfig) : (s.setCfg c).free = s.free := rfl

@[simp] theorem setTaken_params (s : State) (us : List Draw) : (s.setTaken us).params = s.params := rfl
@[simp] theorem setTaken_inflight (s : State) (us : List Draw) : (s.setTaken us).inflight = s.inflight.map fun f => { f with taken := us } := rfl
@[simp] theorem setTaken_done (s : State) (us : List Draw) : (s.setTaken us).done = s.done := rfl
@[simp] theorem setTaken_err (s : State) (us : List Draw) : (s.setTaken us).err = s.err := rfl
@[simp] theorem setTaken_branch (s : State) (us : List Draw) : (s.setTaken us).branch = s.branch := rfl
@[simp] theorem setTaken_short (s : State) (us : List Draw) : (s.setTaken us).short = s.short := rfl
@[simp] theorem setTaken_geState (s : State) (us : List Draw) : (s.setTaken us).geState = s.geState := rfl
@[simp] theorem setTaken_cfgValid (s : State) (us : List Draw) : (s.setTaken us).cfgValid = s.cfgValid := rfl
@[simp] theorem setTaken_ovr (s : State) (us : List Draw) : (s.setTaken us).ovr = s.ovr := rfl
@[simp] theorem setTaken_doneIe (s : State) (us : List Draw) : (s.setTaken us).doneIe = s.doneIe := rfl
@[simp] theorem setTaken_synd (s : State) (us : List Draw) : (s.setTaken us).synd = s.synd := rfl
@[simp] theorem setTaken_corrPos (s : State) (us : List Draw) : (s.setTaken us).corrPos = s.corrPos := rfl
@[simp] theorem setTaken_inLen (s : State) (us : List Draw) : (s.setTaken us).inLen = s.inLen := rfl
@[simp] theorem setTaken_outLen (s : State) (us : List Draw) : (s.setTaken us).outLen = s.outLen := rfl
@[simp] theorem setTaken_cfg (s : State) (us : List Draw) : (s.setTaken us).cfg = s.cfg := rfl
@[simp] theorem setTaken_act (s : State) (us : List Draw) : (s.setTaken us).act = s.act := rfl
@[simp] theorem setTaken_mem (s : State) (us : List Draw) : (s.setTaken us).mem = s.mem := rfl
@[simp] theorem setTaken_rstPin (s : State) (us : List Draw) : (s.setTaken us).rstPin = s.rstPin := rfl
@[simp] theorem setTaken_host (s : State) (us : List Draw) : (s.setTaken us).host = s.host := rfl
@[simp] theorem setTaken_resp (s : State) (us : List Draw) : (s.setTaken us).resp = s.resp := rfl
@[simp] theorem setTaken_reads (s : State) (us : List Draw) : (s.setTaken us).reads = s.reads := rfl
@[simp] theorem setTaken_port (s : State) (us : List Draw) : (s.setTaken us).port = s.port := rfl
@[simp] theorem setTaken_sched (s : State) (us : List Draw) : (s.setTaken us).sched = s.sched := rfl
@[simp] theorem setTaken_free (s : State) (us : List Draw) : (s.setTaken us).free = s.free := rfl

@[simp] theorem supplyDraw_params (u : Draw) (s : State) : (supplyDraw u s).params = s.params := rfl
@[simp] theorem supplyDraw_inflight (u : Draw) (s : State) : (supplyDraw u s).inflight = s.inflight := rfl
@[simp] theorem supplyDraw_done (u : Draw) (s : State) : (supplyDraw u s).done = s.done := rfl
@[simp] theorem supplyDraw_err (u : Draw) (s : State) : (supplyDraw u s).err = s.err := rfl
@[simp] theorem supplyDraw_branch (u : Draw) (s : State) : (supplyDraw u s).branch = s.branch := rfl
@[simp] theorem supplyDraw_short (u : Draw) (s : State) : (supplyDraw u s).short = s.short := rfl
@[simp] theorem supplyDraw_geState (u : Draw) (s : State) : (supplyDraw u s).geState = s.geState := rfl
@[simp] theorem supplyDraw_cfgValid (u : Draw) (s : State) : (supplyDraw u s).cfgValid = s.cfgValid := rfl
@[simp] theorem supplyDraw_ovr (u : Draw) (s : State) : (supplyDraw u s).ovr = s.ovr := rfl
@[simp] theorem supplyDraw_doneIe (u : Draw) (s : State) : (supplyDraw u s).doneIe = s.doneIe := rfl
@[simp] theorem supplyDraw_synd (u : Draw) (s : State) : (supplyDraw u s).synd = s.synd := rfl
@[simp] theorem supplyDraw_corrPos (u : Draw) (s : State) : (supplyDraw u s).corrPos = s.corrPos := rfl
@[simp] theorem supplyDraw_inLen (u : Draw) (s : State) : (supplyDraw u s).inLen = s.inLen := rfl
@[simp] theorem supplyDraw_outLen (u : Draw) (s : State) : (supplyDraw u s).outLen = s.outLen := rfl
@[simp] theorem supplyDraw_cfg (u : Draw) (s : State) : (supplyDraw u s).cfg = s.cfg := rfl
@[simp] theorem supplyDraw_act (u : Draw) (s : State) : (supplyDraw u s).act = s.act := rfl
@[simp] theorem supplyDraw_mem (u : Draw) (s : State) : (supplyDraw u s).mem = s.mem := rfl
@[simp] theorem supplyDraw_rstPin (u : Draw) (s : State) : (supplyDraw u s).rstPin = s.rstPin := rfl
@[simp] theorem supplyDraw_host (u : Draw) (s : State) : (supplyDraw u s).host = s.host := rfl
@[simp] theorem supplyDraw_resp (u : Draw) (s : State) : (supplyDraw u s).resp = s.resp := rfl
@[simp] theorem supplyDraw_reads (u : Draw) (s : State) : (supplyDraw u s).reads = s.reads := rfl
@[simp] theorem supplyDraw_port (u : Draw) (s : State) : (supplyDraw u s).port = s.port ++ [u] := rfl
@[simp] theorem supplyDraw_sched (u : Draw) (s : State) : (supplyDraw u s).sched = s.sched := rfl
@[simp] theorem supplyDraw_free (u : Draw) (s : State) : (supplyDraw u s).free = s.free := rfl

@[simp] theorem releaseReset_params (s : State) : (releaseReset s).params = s.params := rfl
@[simp] theorem releaseReset_inflight (s : State) : (releaseReset s).inflight = s.inflight := rfl
@[simp] theorem releaseReset_done (s : State) : (releaseReset s).done = s.done := rfl
@[simp] theorem releaseReset_err (s : State) : (releaseReset s).err = s.err := rfl
@[simp] theorem releaseReset_branch (s : State) : (releaseReset s).branch = s.branch := rfl
@[simp] theorem releaseReset_short (s : State) : (releaseReset s).short = s.short := rfl
@[simp] theorem releaseReset_geState (s : State) : (releaseReset s).geState = s.geState := rfl
@[simp] theorem releaseReset_cfgValid (s : State) : (releaseReset s).cfgValid = s.cfgValid := rfl
@[simp] theorem releaseReset_ovr (s : State) : (releaseReset s).ovr = s.ovr := rfl
@[simp] theorem releaseReset_doneIe (s : State) : (releaseReset s).doneIe = s.doneIe := rfl
@[simp] theorem releaseReset_synd (s : State) : (releaseReset s).synd = s.synd := rfl
@[simp] theorem releaseReset_corrPos (s : State) : (releaseReset s).corrPos = s.corrPos := rfl
@[simp] theorem releaseReset_inLen (s : State) : (releaseReset s).inLen = s.inLen := rfl
@[simp] theorem releaseReset_outLen (s : State) : (releaseReset s).outLen = s.outLen := rfl
@[simp] theorem releaseReset_cfg (s : State) : (releaseReset s).cfg = s.cfg := rfl
@[simp] theorem releaseReset_act (s : State) : (releaseReset s).act = s.act := rfl
@[simp] theorem releaseReset_mem (s : State) : (releaseReset s).mem = s.mem := rfl
@[simp] theorem releaseReset_rstPin (s : State) : (releaseReset s).rstPin = false := rfl
@[simp] theorem releaseReset_host (s : State) : (releaseReset s).host = s.host := rfl
@[simp] theorem releaseReset_resp (s : State) : (releaseReset s).resp = s.resp := rfl
@[simp] theorem releaseReset_reads (s : State) : (releaseReset s).reads = s.reads := rfl
@[simp] theorem releaseReset_port (s : State) : (releaseReset s).port = s.port := rfl
@[simp] theorem releaseReset_sched (s : State) : (releaseReset s).sched = s.sched := rfl
@[simp] theorem releaseReset_free (s : State) : (releaseReset s).free = s.free := rfl

@[simp] theorem blockReset_params (s : State) : (blockReset s).params = s.params := rfl
@[simp] theorem blockReset_inflight (s : State) : (blockReset s).inflight = none := rfl
@[simp] theorem blockReset_done (s : State) : (blockReset s).done = false := rfl
@[simp] theorem blockReset_err (s : State) : (blockReset s).err = .none := rfl
@[simp] theorem blockReset_branch (s : State) : (blockReset s).branch = .none := rfl
@[simp] theorem blockReset_short (s : State) : (blockReset s).short = false := rfl
@[simp] theorem blockReset_geState (s : State) : (blockReset s).geState = .good := rfl
@[simp] theorem blockReset_cfgValid (s : State) : (blockReset s).cfgValid = false := rfl
@[simp] theorem blockReset_ovr (s : State) : (blockReset s).ovr = false := rfl
@[simp] theorem blockReset_doneIe (s : State) : (blockReset s).doneIe = false := rfl
@[simp] theorem blockReset_synd (s : State) : (blockReset s).synd = 0 := rfl
@[simp] theorem blockReset_corrPos (s : State) : (blockReset s).corrPos = 0 := rfl
@[simp] theorem blockReset_inLen (s : State) : (blockReset s).inLen = 0 := rfl
@[simp] theorem blockReset_outLen (s : State) : (blockReset s).outLen = 0 := rfl
@[simp] theorem blockReset_cfg (s : State) : (blockReset s).cfg = CodeConfig.zero := rfl
@[simp] theorem blockReset_act (s : State) : (blockReset s).act = Config.resetActive s.free := rfl
@[simp] theorem blockReset_mem (s : State) : (blockReset s).mem = Memory.afterReset s.params.bufBits s.free := rfl
@[simp] theorem blockReset_rstPin (s : State) : (blockReset s).rstPin = true := rfl
@[simp] theorem blockReset_host (s : State) : (blockReset s).host = s.host := rfl
@[simp] theorem blockReset_resp (s : State) : (blockReset s).resp = none := rfl
@[simp] theorem blockReset_reads (s : State) : (blockReset s).reads = s.reads := rfl
@[simp] theorem blockReset_port (s : State) : (blockReset s).port = s.port := rfl
@[simp] theorem blockReset_sched (s : State) : (blockReset s).sched = s.sched := rfl
@[simp] theorem blockReset_free (s : State) : (blockReset s).free = s.free + 1 := rfl

@[simp] theorem accept_busy (w : Word) (s : State) : (accept w s).busy = true := rfl
@[simp] theorem finish_busy (e : ErrCode) (s : State) : (finish e s).busy = false := rfl
@[simp] theorem complete_busy (s : State) : (complete s).busy = false := rfl
@[simp] theorem raise_busy (e : ErrCode) (s : State) : (raise e s).busy = false := rfl
@[simp] theorem writeOut_busy (xs : Bits) (s : State) : (writeOut xs s).busy = s.busy := rfl
@[simp] theorem setCfg_busy (s : State) (c : CodeConfig) : (s.setCfg c).busy = s.busy := rfl
@[simp] theorem blockReset_busy (s : State) : (blockReset s).busy = false := rfl
@[simp] theorem setTaken_busy (s : State) (us : List Draw) : (s.setTaken us).busy = s.busy := by
  cases h : s.inflight <;> simp [State.busy, h]

/-- A command not in flight has BUSY = 0, and only then (R25). -/
theorem busy_eq_false {s : State} : s.busy = false ↔ s.inflight = none := by
  simp [State.busy]

theorem busy_eq_true {s : State} : s.busy = true ↔ ∃ f, s.inflight = some f := by
  simp [State.busy, Option.isSome_iff_exists]

end Sys2Proof.Machine
end

