-- ==== Sys2Proof/Laws/Ops.lean ====
section
/-! SUPPORT. One lemma per shared operation: what it can do, for the proofs that use it. -/

namespace Sys2Proof.Machine

/-! ### Bits, words and buffers -/

@[simp] theorem padTo_length (size : Nat) (xs : Bits) : (padTo size xs).length = max size xs.length := by
  simp [padTo]; omega

/-- A padded sequence reads as the sequence inside it and as 0 after it (R41). -/
theorem padTo_getD (size : Nat) (xs : Bits) (j : Nat) :
    (padTo size xs).getD j false = if j < xs.length then xs.getD j false else false := by
  simp only [padTo, List.getD_eq_getElem?_getD, List.getElem?_append]
  split
  · rfl
  · simp [List.getElem?_replicate]; split <;> rfl

@[simp] theorem wordBits_length (v : Word) : (wordBits v).length = 32 := by simp [wordBits]

theorem setWord_length {buf : Bits} {w : Nat} (v : Word) (h : 32 * w + 32 ≤ buf.length) :
    (setWord buf w v).length = buf.length := by
  simp [setWord]; omega

/-- Bit `j` of the number of a list is element `j` of the list. -/
theorem testBit_bitsToNat (bs : Bits) (j : Nat) : (bitsToNat bs).testBit j = bs.getD j false := by
  induction bs generalizing j with
  | nil => simp [bitsToNat]
  | cons b bs ih =>
    cases j with
    | zero => cases b <;> simp [bitsToNat, Nat.testBit_zero]
    | succ j =>
      have : (b.toNat + 2 * bitsToNat bs) / 2 = bitsToNat bs := by have := Bool.toNat_lt b; omega
      simp [bitsToNat, Nat.testBit_succ, this, ih]

/-- Bit `b` of word `w` of a buffer is `buf[32w + b]` (R61). -/
theorem getLsbD_getWord (buf : Bits) (w b : Nat) (hb : b < 32) :
    (getWord buf w).getLsbD b = buf.getD (32 * w + b) false := by
  rw [getWord, BitVec.getLsbD_ofNat, testBit_bitsToNat]
  simp [hb]

/-- After a store, the bits of word `w` are the stored word's and every other bit is as before (R65). -/
theorem setWord_getD {buf : Bits} {w : Nat} (v : Word) (h : 32 * w + 32 ≤ buf.length) (j : Nat) :
    (setWord buf w v).getD j false
      = if 32 * w ≤ j ∧ j < 32 * w + 32 then v.getLsbD (j - 32 * w) else buf.getD j false := by
  have h1 : (buf.take (32 * w)).length = 32 * w := by simp; omega
  simp only [setWord, List.getD_eq_getElem?_getD, List.append_assoc, List.getElem?_append, h1, wordBits_length]
  by_cases hj : j < 32 * w
  · simp [hj]
  · by_cases hk : j - 32 * w < 32
    · have : 32 * w ≤ j ∧ j < 32 * w + 32 := by omega
      simp [hj, hk, this, wordBits]
    · have h2 : ¬ (32 * w ≤ j ∧ j < 32 * w + 32) := by omega
      have h3 : 32 * w + 32 + (j - 32 * w - 32) = j := by omega
      simp [hj, hk, h2, List.getElem?_drop, h3]

/-! ### The shared checks -/

/-- What the shared checks of a data command can answer, in their order (R202, R203, R206). -/
theorem dataCommand_cases (fits : Bool) (s : State) (body : Result) :
    (s.cfgValid = false ∧ dataCommand fits s body = .next (raise .notConfigured s)) ∨
    (s.cfgValid = true ∧ fits = false ∧ dataCommand fits s body = .next (raise .length s)) ∨
    (s.cfgValid = true ∧ fits = true ∧ dataCommand fits s body = body) := by
  cases hv : s.cfgValid <;> cases fits <;> simp [dataCommand, hv]

/-- With a configuration and a fitting length the command runs its body. -/
theorem dataCommand_runs {fits : Bool} {s : State} (hv : s.cfgValid = true) (hf : fits = true) (body : Result) :
    dataCommand fits s body = body := by
  simp [dataCommand, hv, hf]

/-! ### The draw port -/

/-- With enough draws the command goes on with them; otherwise it takes what there is and waits (R160, R244). -/
theorem withDraws_cases (n : Nat) (s : State) (body : List Draw → State → Result) :
    (n ≤ s.taken.length + s.port.length ∧
      withDraws n s body = body ((s.taken ++ s.port).take n) { s with port := s.port.drop (n - s.taken.length) }) ∨
    (s.taken.length + s.port.length < n ∧
      withDraws n s body = .next { s.setTaken (s.taken ++ s.port) with port := [] }) := by
  by_cases h : n ≤ s.taken.length + s.port.length
  · exact .inl ⟨h, by simp [withDraws, h]⟩
  · exact .inr ⟨by omega, by simp [withDraws]; omega⟩

theorem withDraws_enough {n : Nat} {s : State} (h : n ≤ s.taken.length + s.port.length)
    (body : List Draw → State → Result) :
    withDraws n s body = body ((s.taken ++ s.port).take n) { s with port := s.port.drop (n - s.taken.length) } := by
  simp [withDraws, h]

theorem withDraws_waits {n : Nat} {s : State} (h : s.taken.length + s.port.length < n)
    (body : List Draw → State → Result) :
    withDraws n s body = .next { s.setTaken (s.taken ++ s.port) with port := [] } := by
  simp [withDraws]; omega

/-! ### The buffers keep their form -/

theorem memory_wf_iff {bufBits : Nat} {m : Memory} :
    m.wf bufBits = true ↔ m.inBuf.length = bufBits ∧ m.outBuf.length = bufBits := by
  simp [Memory.wf]

theorem memory_afterReset_wf (bufBits e : Nat) : (Memory.afterReset bufBits e).wf bufBits = true := by
  simp [Memory.wf, Memory.afterReset]

theorem memory_wf_writeOut {s : State} {xs : Bits} (h : s.mem.wf s.params.bufBits = true)
    (hx : xs.length ≤ s.params.bufBits) : (writeOut xs s).mem.wf s.params.bufBits = true := by
  simp_all [memory_wf_iff]

theorem memory_wf_move {bufBits : Nat} {m : Memory} (h : m.wf bufBits = true) :
    ({ m with inBuf := m.outBuf } : Memory).wf bufBits = true := by
  simp_all [memory_wf_iff]

theorem memory_wf_setWord {bufBits w : Nat} {m : Memory} (v : Word) (h : m.wf bufBits = true)
    (hw : 32 * w + 32 ≤ bufBits) : ({ m with inBuf := setWord m.inBuf w v } : Memory).wf bufBits = true := by
  obtain ⟨hi, ho⟩ := memory_wf_iff.mp h
  exact memory_wf_iff.mpr ⟨by rw [setWord_length v (by omega)]; exact hi, ho⟩

/-- A fitting input sequence has IN_LEN bits. -/
theorem input_length {s : State} (h : s.mem.wf s.bufBits = true) (hl : s.len ≤ s.bufBits) :
    s.input.length = s.len := by
  obtain ⟨hi, -⟩ := memory_wf_iff.mp h
  simp [State.input, hi, hl]

end Sys2Proof.Machine
end

