-- ==== Sys2Proof/Laws/Exec.lean ====
section
/-! SUPPORT. What running any command can do: it always answers a next state, and the fields no command writes. -/

namespace Sys2Proof.Machine

/-- The fields that no command writes (R185 to R188 and the STATUS lines of the data commands). -/
structure SameSurround (s t : State) : Prop where
  params : t.params = s.params
  ovr    : t.ovr = s.ovr
  doneIe : t.doneIe = s.doneIe
  cfg    : t.cfg = s.cfg
  rstPin : t.rstPin = s.rstPin
  host   : t.host = s.host
  resp   : t.resp = s.resp
  reads  : t.reads = s.reads
  sched  : t.sched = s.sched
  free   : t.free = s.free

theorem dataCommand_next {fits : Bool} {s : State} {body : Result} (P : State → Prop)
    (hr : ∀ e, P (raise e s)) (hb : ∃ t, body = .next t ∧ P t) : ∃ t, dataCommand fits s body = .next t ∧ P t := by
  rcases dataCommand_cases fits s body with ⟨-, h⟩ | ⟨-, -, h⟩ | ⟨-, -, h⟩
  · exact ⟨_, h, hr _⟩
  · exact ⟨_, h, hr _⟩
  · exact h.symm ▸ hb

theorem withDraws_next {n : Nat} {s : State} {body : List Draw → State → Result} (P : State → Prop)
    (hw : P { s.setTaken (s.taken ++ s.port) with port := [] })
    (hb : ∀ us p, ∃ t, body us { s with port := p } = .next t ∧ P t) : ∃ t, withDraws n s body = .next t ∧ P t := by
  rcases withDraws_cases n s body with ⟨-, h⟩ | ⟨-, h⟩
  · exact h.symm ▸ hb _ _
  · exact ⟨_, h, hw⟩

/-- Every command answers a next state, and leaves the fields of `SameSurround` alone. -/
theorem exec_next (i : Instr) (s : State) : ∃ t, exec i s = .next t ∧ SameSurround s t := by
  have hr : ∀ e, SameSurround s (raise e s) := fun e => by constructor <;> rfl
  cases i with
  | nop => exact ⟨_, rfl, by constructor <;> rfl⟩
  | config =>
    simp only [exec, execConfig]
    split <;> exact ⟨_, rfl, by constructor <;> rfl⟩
  | chReset => exact ⟨_, rfl, by constructor <;> rfl⟩
  | move => exact ⟨_, rfl, by constructor <;> rfl⟩
  | bchEnc => exact dataCommand_next _ hr ⟨_, rfl, by constructor <;> rfl⟩
  | bchDec => exact dataCommand_next _ hr ⟨_, rfl, by constructor <;> rfl⟩
  | repEnc => exact dataCommand_next _ hr ⟨_, rfl, by constructor <;> rfl⟩
  | repDec => exact dataCommand_next _ hr ⟨_, rfl, by constructor <;> rfl⟩
  | bscTx =>
    exact dataCommand_next _ hr (withDraws_next _ (by constructor <;> rfl) fun us p => ⟨_, rfl, by constructor <;> rfl⟩)
  | geTx =>
    exact dataCommand_next _ hr (withDraws_next _ (by constructor <;> rfl) fun us p => ⟨_, rfl, by constructor <;> rfl⟩)

/-- The sequencer's move always answers a next state. -/
theorem seqMove_next (s : State) : ∃ t, seqMove s = .next t ∧ SameSurround s t := by
  cases hf : s.inflight with
  | none => exact ⟨s, by simp [seqMove, hf], by constructor <;> rfl⟩
  | some f =>
    cases hd : decode f.word with
    | instr i => simpa [seqMove, hf, hd] using exec_next i s
    | illegal e => exact ⟨raise .illegalCmd s, by simp [seqMove, hf, hd], by constructor <;> rfl⟩

/-- The fields that no write to a location of R240 and no read touches while BUSY = 1: a host access meets a running
command without changing it, its operands or its results (R71, R240, R242). -/
structure SameCommand (s t : State) : Prop where
  params   : t.params = s.params
  inflight : t.inflight = s.inflight
  err      : t.err = s.err
  branch   : t.branch = s.branch
  short    : t.short = s.short
  geState  : t.geState = s.geState
  cfgValid : t.cfgValid = s.cfgValid
  synd     : t.synd = s.synd
  corrPos  : t.corrPos = s.corrPos
  inLen    : t.inLen = s.inLen
  outLen   : t.outLen = s.outLen
  cfg      : t.cfg = s.cfg
  act      : t.act = s.act
  mem      : t.mem = s.mem
  rstPin   : t.rstPin = s.rstPin
  port     : t.port = s.port

theorem busAccess_busy {s : State} (h : s.busy = true) (a : BusAccess) : SameCommand s (busAccess s a) := by
  unfold busAccess
  split
  · cases a with
    | read b off => simp only [afterRead]; split <;> constructor <;> rfl
    | write b off v =>
      simp only [writeLoc, h, Bool.true_and]
      split
      · constructor <;> rfl
      · rename_i hl
        cases hloc : locate s.bufBits off <;> simp_all [Loc.droppedWhileBusy] <;> constructor <;> rfl
  · constructor <;> rfl

end Sys2Proof.Machine
end

