-- ==== Sys2Proof/Laws/Safety.lean ====
section
/-! SUPPORT. Small steps that keep the invariant, for the proofs about whole steps. -/

namespace Sys2Proof.Machine

/-- Acceptance keeps the invariant (R181). -/
theorem inv_accept {s : State} (h : Invariant s) (hr : s.rstPin = false) (w : Word) : Invariant (accept w s) where
  params_wf := h.params_wf
  mem_wf := h.mem_wf
  busy_clear := fun _ => ⟨rfl, rfl, rfl, rfl⟩
  cfg_legal := h.cfg_legal
  outLen_le := h.outLen_le
  branch_ok := fun hb => absurd rfl hb
  short_ok := fun hs => by simp at hs
  in_reset := fun hp => by simp [hr] at hp
  taken_lt := fun f hf => by
    simp at hf
    exact .inl (by rw [← hf])

/-- The draw port, the schedule and the host's list do not enter the invariant. -/
theorem inv_agents {s : State} (h : Invariant s) (p : List Draw) (m : List Move) (l : List HostLine) :
    Invariant { s with port := p, sched := m, host := l } :=
  ⟨h.params_wf, h.mem_wf, h.busy_clear, h.cfg_legal, h.outLen_le, h.branch_ok, h.short_ok, h.in_reset, h.taken_lt⟩

/-- The checks K1 to K5 as the table of R184 writes them. -/
theorem legalConfig_iff {c : CodeConfig} :
    legalConfig c = true ↔
      1 ≤ c.k.toNat ∧ c.n.toNat = c.k.toNat + 3 ∧ c.n.toNat ≤ 256 ∧ 1 ≤ c.rep.toNat ∧ c.pBsc.toNat ≤ 65536 ∧
        c.pGood.toNat ≤ 65536 ∧ c.pBad.toNat ≤ 65536 ∧ c.pG2b.toNat ≤ 65536 ∧ c.pB2g.toNat ≤ 65536 := by
  simp only [legalConfig, Bool.and_eq_true, decide_eq_true_eq]
  simp only [Config.redundancy, Config.nMax, Config.probOne]
  tauto

/-- A legal active configuration has 1 ≤ k ≤ 253, n = k + 3 and r ≥ 1 (R184). -/
theorem legalConfig_bounds {c : CodeConfig} (h : legalConfig c = true) :
    1 ≤ c.k.toNat ∧ c.k.toNat ≤ 253 ∧ c.n.toNat = c.k.toNat + 3 ∧ c.n.toNat ≤ 256 ∧ 1 ≤ c.rep.toNat := by
  obtain ⟨h1, h2, h3, h4, -⟩ := legalConfig_iff.mp h
  omega

/-- The parameters of an instance: 256 ≤ BUF_BITS ≤ 32768, a multiple of 32 (R7). -/
theorem params_bounds {p : Params} (h : p.wf = true) : p.bufBits % 32 = 0 ∧ 256 ≤ p.bufBits ∧ p.bufBits ≤ 32768 := by
  simp [Params.wf] at h
  omega

end Sys2Proof.Machine
end

