-- ==== Sys2Proof/Laws/Bus.lean ====
section
/-! SUPPORT. What an access can do: address decode of the windows, the bit that `wait` reads, the memory's form; and what the
host's move and the end of a run can be. -/

namespace Sys2Proof.Machine

/-- An IN or OUT word lies inside its buffer (R62). -/
theorem windowWord_some {bufBits start a w : Nat} (h : windowWord bufBits start a = some w) (hb : bufBits % 32 = 0)
    (hs : start % 4 = 0) :
    a = start + 4 * w ∧ 32 * w + 32 ≤ bufBits := by
  simp only [windowWord] at h
  split at h
  · rename_i hc
    simp only [Option.some.injEq] at h
    omega
  · simp at h

/-- An offset that selects an IN word selects one inside the IN buffer (R62). -/
theorem locate_inWord {bufBits w : Nat} {off : Offset} (h : locate bufBits off = .inWord w) (hb : bufBits % 32 = 0) :
    32 * w + 32 ≤ bufBits := by
  unfold locate at h
  split at h <;> try (simp at h)
  split at h
  · rename_i hw
    simp at h
    exact (windowWord_some (h ▸ hw) hb (by decide)).2
  · split at h <;> simp at h

/-- A word of a window selects itself (R61, R62). -/
theorem windowWord_of_word {bufBits start w : Nat} (hw : w < bufBits / 32) :
    windowWord bufBits start (start + 4 * w) = if (start + 4 * w) % 4 = 0 then some w else none := by
  have h1 : start + 4 * w < start + bufBits / 8 := by omega
  simp [windowWord, h1]

/-- An offset outside a window selects none of its words (R62). -/
theorem windowWord_none {bufBits start a : Nat} (h : a < start ∨ start + bufBits / 8 ≤ a) :
    windowWord bufBits start a = none := by
  simp only [windowWord]
  rw [if_neg]
  omega

/-- The offset of IN word `w` selects it (R61, R62, R76). -/
theorem locate_in {bufBits w : Nat} (hb : bufBits ≤ 32768) (hw : w < bufBits / 32) :
    locate bufBits (BitVec.ofNat 14 (0x1000 + 4 * w)) = .inWord w := by
  have ht : (BitVec.ofNat 14 (0x1000 + 4 * w)).toNat = 0x1000 + 4 * w := by simp; omega
  have hin : windowWord bufBits inWindow (0x1000 + 4 * w) = some w := by
    rw [show (0x1000 + 4 * w) = inWindow + 4 * w from rfl, windowWord_of_word hw, if_pos (by simp only [inWindow]; omega)]
  unfold locate
  rw [ht]
  split <;> first | omega | simp [hin]

/-- The offset of OUT word `w` selects it (R61, R62, R76). -/
theorem locate_out {bufBits w : Nat} (hb : bufBits ≤ 32768) (hw : w < bufBits / 32) :
    locate bufBits (BitVec.ofNat 14 (0x2000 + 4 * w)) = .outWord w := by
  have ht : (BitVec.ofNat 14 (0x2000 + 4 * w)).toNat = 0x2000 + 4 * w := by simp; omega
  have hin : windowWord bufBits inWindow (0x2000 + 4 * w) = none := windowWord_none (by simp only [inWindow]; omega)
  have hout : windowWord bufBits outWindow (0x2000 + 4 * w) = some w := by
    rw [show (0x2000 + 4 * w) = outWindow + 4 * w from rfl, windowWord_of_word hw, if_pos (by simp only [outWindow]; omega)]
  unfold locate
  rw [ht]
  split <;> first | omega | simp [hin, hout]

/-- A legal read, with the location its offset selects (R62, R66). -/
theorem busAccess_read {s : State} {off : Offset} (h : off.toNat % 4 = 0) :
    busAccess s (.read 32 off)
      = { afterRead s (locate s.bufBits off) with
          resp := some { error := false, data := readValue s (locate s.bufBits off) } } := by
  simp [busAccess, BusAccess.legal, BusAccess.width, BusAccess.off, h]

/-- A legal write, with the location its offset selects (R62, R66). -/
theorem busAccess_write {s : State} {off : Offset} (v : Word) (h : off.toNat % 4 = 0) :
    busAccess s (.write 32 off v)
      = { writeLoc s v (locate s.bufBits off) with resp := some { error := false, data := 0 } } := by
  simp [busAccess, BusAccess.legal, BusAccess.width, BusAccess.off, h]

/-- The layout of STATUS, bit by bit (R24). -/
theorem statusWord_getLsbD (s : State) (i : Nat) :
    s.statusWord.getLsbD i
      = if i = 0 then s.busy else if i = 1 then s.done else if i < 5 then s.err.code.getLsbD (i - 2)
        else if i < 7 then s.branch.code.getLsbD (i - 5) else if i = 7 then s.short else if i = 8 then s.geState.bit
        else if i = 9 then s.cfgValid else if i = 10 then s.ovr else false := by
  by_cases hi : i < 32
  · simp only [State.statusWord, BitVec.getLsbD_append]
    interval_cases i <;> simp
  · rw [BitVec.getLsbD_of_ge _ _ (by omega)]
    repeat' rw [if_neg (by omega)]

/-- Bit 0 of STATUS is BUSY, whether the command runs or not (R24, R242). -/
theorem statusRead_bit0 (s : State) : (busAccess s statusRead).respData.getLsbD 0 = s.busy := by
  have hloc : locate s.bufBits (0x004 : Offset) = .status := rfl
  have h0 : s.statusWord.getLsbD 0 = s.busy := by rw [statusWord_getLsbD]; rfl
  rw [statusRead, busAccess_read (by decide), hloc]
  simp only [State.respData, readValue]
  split
  · simp only [State.statusWhileBusy, BitVec.getLsbD_or, BitVec.getLsbD_and, h0, ite_true]
    simp [statusFreeMask]
  · exact h0

/-- Every access keeps the memory's form (R40, R41). -/
theorem busAccess_mem_wf {s : State} (hp : s.params.wf = true) (h : s.mem.wf s.bufBits = true) (a : BusAccess) :
    (busAccess s a).mem.wf s.bufBits = true := by
  unfold busAccess
  split
  · cases a with
    | read b off => simp only [afterRead]; split <;> exact h
    | write b off v =>
      simp only [writeLoc]
      split
      · exact h
      · cases hloc : locate s.bufBits off with
        | inWord w => exact memory_wf_setWord v h (locate_inWord hloc (params_bounds hp).1)
        | _ => exact h
  · exact h

/-! ### The host's move and the end of a run (R190) -/

/-- A step in which the host moves while no command is in flight is the host's move. -/
theorem step_of_hostMoves {s : State} (h : hostMoves s = true) (hb : s.busy = false) :
    step s = hostMove { s with sched := s.sched.tail } := by
  obtain ⟨params, inflight, done, err, branch, short, geState, cfgValid, ovr, doneIe, synd, corrPos, inLen, outLen, cfg, act,
    mem, rstPin, host, resp, reads, port, sched, free⟩ := s
  unfold step scheduledMove defaultMove
  cases sched with
  | nil => simp only [hb]; rfl
  | cons m ms =>
    cases m with
    | host => rfl
    | hostWithSeq => exact if_neg (by simpa [State.busy] using hb)
    | _ => cases h

/-- The host's list does not change in an access. -/
theorem busAccess_host (s : State) (a : BusAccess) : (busAccess s a).host = s.host := by
  unfold busAccess
  split
  · cases a with
    | read b off => simp only [afterRead]; split <;> rfl
    | write b off v => simp only [writeLoc]; split <;> [rfl; (cases locate s.bufBits off <;> rfl)]
  · rfl

/-- Only a write starts a command: a read leaves BUSY as it was (R69, R181). -/
theorem busAccess_read_busy (s : State) (b : Nat) (off : Offset) : (busAccess s (.read b off)).busy = s.busy := by
  unfold busAccess
  split
  · simp only [afterRead]; split <;> rfl
  · rfl

@[simp] theorem keepRead_host (s : State) (a : BusAccess) : (keepRead a s).host = s.host := by cases a <;> rfl
@[simp] theorem keepRead_busy (s : State) (a : BusAccess) : (keepRead a s).busy = s.busy := by cases a <;> rfl

/-- The host's move with a line left and the reset input released. -/
theorem hostMove_cons {s : State} {l : HostLine} {rest : List HostLine} (h : s.host = l :: rest) (hr : s.rstPin = false) :
    hostMove s = .next (hostLine s l rest) := by
  simp [hostMove, h, hr]

/-- What a line that makes an access does when it finds BUSY = 0: the lines after it are left, and only a write starts a
command. -/
theorem hostLine_idle {s : State} {l : HostLine} (hb : s.busy = false) (hl : l.onBus = true) (rest : List HostLine) :
    (hostLine s l rest).host = rest ∧
      ((hostLine s l rest).busy = true → ∃ b off v, l = .access (.write b off v)) := by
  cases l with
  | access a =>
    refine ⟨by simp [hostLine, busAccess_host], fun ht => ?_⟩
    cases a with
    | read b off =>
      simp only [hostLine, keepRead_busy, busAccess_read_busy] at ht
      exact absurd (ht.symm.trans hb) (by decide)
    | write b off v => exact ⟨b, off, v, rfl⟩
  | wait =>
    simp only [hostLine, hb, Bool.false_eq_true, if_false]
    exact ⟨trivial, fun ht => absurd (ht.symm.trans ((busAccess_read_busy s 32 0x004).trans hb)) (by decide)⟩
  | waitIrq => cases hl

/-- At the end of a run no access is left, and BUSY is 0 unless the last access was a write (R190). -/
theorem runEnds_host {s₀ t : State} (h : RunEnds s₀ t) :
    (t.host.all fun l => !l.onBus) = true ∧
      (t.busy = true → ∃ s b off v, Run s₀ s ∧ s.busy = false ∧ s.host = .access (.write b off v) :: t.host ∧ RunStep s t) := by
  obtain ⟨s, hr, hl, hst⟩ := h
  simp only [lastAccessIdle, Bool.and_eq_true, Bool.not_eq_true'] at hl
  obtain ⟨⟨hm, hb⟩, hl⟩ := hl
  have hstep := hst.1
  rw [step_of_hostMoves hm hb] at hstep
  cases hh : s.host with
  | nil => simp [hh] at hl
  | cons l rest =>
    simp only [hh, Bool.and_eq_true] at hl
    cases hp : s.rstPin with
    | true => simp [hostMove, hh, hp, hl.1] at hstep
    | false =>
      rw [hostMove_cons (s := { s with sched := s.sched.tail }) hh hp] at hstep
      injection hstep with hstep
      obtain ⟨h1, h2⟩ := hostLine_idle (s := { s with sched := s.sched.tail }) hb hl.1 rest
      rw [hstep] at h1 h2
      refine ⟨h1.symm ▸ hl.2, fun ht => ?_⟩
      obtain ⟨b, off, v, rfl⟩ := h2 ht
      exact ⟨s, b, off, v, hr, hb, h1.symm ▸ hh, hst⟩
end Sys2Proof.Machine
end

