-- ==== Sys2Proof/Laws/Codecs.lean ====
section
/-! SUPPORT. The small lemmas of the codec and channel functions: lengths, the division loop, the search, the loops of
the channel commands. -/

namespace Sys2Proof.Machine

/-! ### Division, syndrome, search (R130 to R140) -/

@[simp] theorem xorBit_length (b : Bits) (j : Nat) (x : Bool) : (xorBit b j x).length = b.length := by simp [xorBit]

@[simp] theorem addGenerator_length (b : Bits) (i : Nat) : (addGenerator b i).length = b.length := by
  simp [addGenerator, List.range_succ]

@[simp] theorem divideStep_length (b : Bits) (i : Nat) : (divideStep b i).length = b.length := by
  unfold divideStep; split <;> simp

@[simp] theorem divide_zero (b : Bits) : divide 0 b = b := rfl

/-- The loop's last step (R130). -/
theorem divide_succ (k : Nat) (b : Bits) : divide (k + 1) b = divideStep (divide k b) k := by
  simp [divide, List.range_succ]

@[simp] theorem divide_length (k : Nat) (b : Bits) : (divide k b).length = b.length := by
  induction k with
  | zero => rfl
  | succ k ih => rw [divide_succ, divideStep_length, ih]

theorem syndromeTail_length (k : Nat) (y : Bits) : (syndromeTail k y).length = y.length - k := by simp [syndromeTail]

theorem encodeWord_length (msg : Bits) : (encodeWord msg).length = msg.length + Config.redundancy := by
  simp [encodeWord, syndromeTail]

@[simp] theorem flipBit_length (y : Bits) (i : Nat) : (flipBit y i).length = y.length := by simp [flipBit]

/-- Inside the word, flipping bit `i` inverts bit `i` and no other (R136). -/
theorem flipBit_getD {y : Bits} {i : Nat} (h : i < y.length) (j : Nat) :
    (flipBit y i).getD j false = if j = i then !y.getD i false else y.getD j false := by
  simp only [flipBit, List.getD_eq_getElem?_getD, List.getElem?_set]
  by_cases hj : j = i
  · subst hj; simp [h]
  · simp [hj, Ne.symm hj]

/-- A found index is in the word and zeroes the syndrome, and no lower index does (R136). -/
theorem search_some {k : Nat} {y : Bits} {i : Nat} (h : search k y = some i) :
    i < y.length ∧ syndrome k (flipBit y i) = 0 ∧ ∀ h, h < i → syndrome k (flipBit y h) ≠ 0 := by
  simp only [search, List.find?_range_eq_some, List.mem_range] at h
  obtain ⟨h0, hi, hl⟩ := h
  exact ⟨hi, by simpa using h0, fun j hj => by simpa using hl j hj⟩

theorem search_none {k : Nat} {y : Bits} :
    search k y = none ↔ ∀ i, i < y.length → syndrome k (flipBit y i) ≠ 0 := by
  simp [search]

/-- The decoded message has k bits (R138 to R140). -/
theorem decodeWord_msg_length (k : Nat) (y : Bits) : (decodeWord k y).msg.length = min k y.length := by
  unfold decodeWord
  split
  · simp
  · split <;> simp

/-! ### Repetition (R110 to R115) -/

theorem replicateBits_length (r : Nat) (m : Bits) : (replicateBits r m).length = m.length * r := by
  simp [replicateBits]

theorem groups_length (r : Nat) (y : Bits) : (groups r y).length = ceilDiv y.length r := by simp [groups]

/-- `ceil_div(a, b)` is the least `q` with `q * b ≥ a` (R11). -/
theorem ceilDiv_spec {b : Nat} (hb : 1 ≤ b) (a : Nat) : a ≤ ceilDiv a b * b ∧ ∀ q, a ≤ q * b → ceilDiv a b ≤ q := by
  constructor
  · have := Nat.div_add_mod (a + b - 1) b
    have hm := Nat.mod_lt (a + b - 1) hb
    unfold ceilDiv
    rw [Nat.mul_comm]
    omega
  · intro q hq
    unfold ceilDiv
    apply Nat.le_of_lt_succ
    rw [Nat.div_lt_iff_lt_mul hb]
    rw [Nat.succ_mul]
    omega

/-! ### Channels (R162, R164, R165) -/

theorem bsc_length (p : Prob) (xs : Bits) (us : List Draw) : (bsc p xs us).length = min xs.length us.length := by
  simp [bsc]

@[simp] theorem geRun_nil (c : CodeConfig) (st : Regime) (us : List Draw) : geRun c st [] us = ([], st) := by
  unfold geRun; rfl

@[simp] theorem geRun_cons (c : CodeConfig) (st : Regime) (b : Bool) (bs : Bits) (u v : Draw) (us : List Draw) :
    geRun c st (b :: bs) (u :: v :: us)
      = ((geStep c st b u v).1 :: (geRun c (geStep c st b u v).2 bs us).1, (geRun c (geStep c st b u v).2 bs us).2) := by
  rw [geRun]

/-- With two draws per bit the output has the input's length (R164, R165). -/
theorem geRun_length (c : CodeConfig) (st : Regime) (xs : Bits) (us : List Draw) (h : 2 * xs.length ≤ us.length) :
    (geRun c st xs us).1.length = xs.length := by
  induction xs generalizing st us with
  | nil => simp
  | cons b bs ih =>
    match us, h with
    | [], h => simp at h
    | [_], h => simp at h; omega
    | u :: v :: us, h => simp; exact ih _ _ (by simp at h; omega)

end Sys2Proof.Machine
end

