-- ==== Sys2Proof/Laws/PerInstr.lean ====
section
/-! SUPPORT. Statements made for each command as syntax. -/

namespace Sys2Proof.Laws.EncodingShape

/-- The word of a well-formed command has RSV = 0 and an OPC of the map of R93 (R90, R92). -/
def Statement (i : Instr) : Prop := i.wf = true ∧ commandWordWf (encode i) = true ∧ opcField (encode i) = opcode i

theorem nop : Statement .nop := by unfold Statement; decide
theorem config : Statement .config := by unfold Statement; decide
theorem chReset : Statement .chReset := by unfold Statement; decide
theorem move : Statement .move := by unfold Statement; decide
theorem bchEnc : Statement .bchEnc := by unfold Statement; decide
theorem bchDec : Statement .bchDec := by unfold Statement; decide
theorem repEnc : Statement .repEnc := by unfold Statement; decide
theorem repDec : Statement .repDec := by unfold Statement; decide
theorem bscTx : Statement .bscTx := by unfold Statement; decide
theorem geTx : Statement .geTx := by unfold Statement; decide

end Sys2Proof.Laws.EncodingShape
end

