-- ==== Sys2Proof/Tests/Slice0.lean ====
section
/-! SUPPORT. Tests: the spec's own vectors (spec/95_test_vectors.md) on single commands and accesses, the smoke test of
WellFormed, words written out from the encoding table, and a witness for the hypotheses of every statement. -/

namespace Sys2Proof.Tests

open Sys2Proof.Machine Sys2Proof.Claims

/-! ### Helpers -/

/-- A bit string as the spec writes it, `s[0]` first. -/
def bits (s : List Nat) : Bits := s.map (· == 1)

/-- A configuration with the probabilities 0. -/
def code (n k : BitVec 9) (r : BitVec 16) : CodeConfig := { CodeConfig.zero with n := n, k := k, rep := r }

/-- A channel configuration with k = 5, n = 8, r = 3. -/
def channel (p good bad g2b b2g : Prob) : CodeConfig :=
  { n := 8, k := 5, rep := 3, pBsc := p, pGood := good, pBad := bad, pG2b := g2b, pB2g := b2g }

/-- Configured idle with BUF_BITS = 256, the active configuration `c` and the input sequence `x`. -/
def demo (c : CodeConfig) (x : Bits) : State :=
  { State.reset with
    params := { bufBits := 256, base := 0 }, cfgValid := true, act := c, cfg := c
    mem := { inBuf := padTo 256 x, outBuf := zeros 256 }, inLen := BitVec.ofNat 16 x.length }

/-- `s` with the draws `us` supplied. -/
def supplied (us : List Draw) (s : State) : State := { s with port := us }

/-- `s` with the command `i` accepted. -/
def running (i : Instr) (s : State) : State := accept (encode i) s

/-- A check of the next state. -/
def gives (r : Result) (p : State → Bool) : Bool :=
  match r with
  | .next t    => p t
  | .fault _   => false
  | .refused _ => false

/-- The data of the response to an access. -/
def answer (s : State) (a : BusAccess) : Word := (busAccess s a).respData

theorem demo_inv {c : CodeConfig} {x : Bits} (hc : legalConfig c = true) (hx : x.length ≤ 256) : Invariant (demo c x) where
  params_wf := (by decide : Params.wf { bufBits := 256, base := 0 } = true)
  mem_wf := by simp [demo, Memory.wf, hx]
  busy_clear := fun h => by simp [demo, State.busy, State.reset] at h
  cfg_legal := fun _ => hc
  outLen_le := by simp [demo, State.reset]
  branch_ok := fun h => absurd rfl h
  short_ok := fun h => by simp [demo, State.reset] at h
  in_reset := fun h => by simp [demo, State.reset] at h
  taken_lt := fun f h => by simp [demo, State.reset] at h

theorem supplied_inv {s : State} (h : Invariant s) (us : List Draw) : Invariant (supplied us s) := inv_agents h us s.sched s.host

/-! ### WellFormed: each check refuses an ill-formed term -/

theorem test_wf_reserved_opcode : commandWordWf 0x0000000A = false := by decide
theorem test_wf_reserved_bits : commandWordWf 0x00000010 = false := by decide
theorem test_wf_bufBits_multiple : Params.wf { bufBits := 300, base := 0 } = false := by decide
theorem test_wf_bufBits_low : Params.wf { bufBits := 224, base := 0 } = false := by decide
theorem test_wf_bufBits_high : Params.wf { bufBits := 32800, base := 0 } = false := by decide
theorem test_wf_base : Params.wf { bufBits := 256, base := 4096 } = false := by decide
theorem test_wf_all_commands (i : Instr) : i.wf = true := by cases i <;> rfl

/-! ### Decoding: RSV [31:4] then OPC [3:0], written out from R90 and R93 (vectors TX1 to TX16) -/

theorem test_decode_nop : decode 0b00000000000000000000000000000000 = .instr .nop := by decide
theorem test_decode_config : decode 0b00000000000000000000000000000001 = .instr .config := by decide
theorem test_decode_chReset : decode 0b00000000000000000000000000000010 = .instr .chReset := by decide
theorem test_decode_move : decode 0b00000000000000000000000000000011 = .instr .move := by decide
theorem test_decode_bchEnc : decode 0b00000000000000000000000000000100 = .instr .bchEnc := by decide
theorem test_decode_bchDec : decode 0b00000000000000000000000000000101 = .instr .bchDec := by decide
theorem test_decode_repEnc : decode 0b00000000000000000000000000000110 = .instr .repEnc := by decide
theorem test_decode_repDec : decode 0b00000000000000000000000000000111 = .instr .repDec := by decide
theorem test_decode_bscTx : decode 0b00000000000000000000000000001000 = .instr .bscTx := by decide
theorem test_decode_geTx : decode 0b00000000000000000000000000001001 = .instr .geTx := by decide
theorem test_decode_TX11 : decode 0x0000000A = .illegal .reservedOpcode := by decide
theorem test_decode_TX14 : decode 0x00000014 = .illegal .reservedBits := by decide
theorem test_decode_TX15 : decode 0x80000005 = .illegal .reservedBits := by decide
theorem test_decodeTableWord : decodeTableWord 32 5 = some .bchDec := by decide

/-! ### Commands -/

theorem test_nop_TK15 : gives (step (State.reset.withFetchWord 32 0)) (fun t => t.statusWord == 0x002) = true := by decide

theorem test_config_TK1 :
    gives (exec .config { State.reset with cfg := code 8 5 3 }) (fun t => t.statusWord == 0x202 && t.act == code 8 5 3)
      = true := by decide

theorem test_config_TK5 :
    gives (exec .config { State.reset with cfg := code 257 254 1, cfgValid := true, geState := .bad })
      (fun t => t.statusWord == 0x112) = true := by decide

theorem test_chReset_TK12 :
    gives (exec .chReset { State.reset with geState := .bad }) (fun t => t.statusWord == 0x002) = true := by decide

theorem test_move_TK13 :
    gives (exec .move { demo (code 8 5 3) [] with mem := { inBuf := zeros 256, outBuf := padTo 256 (bits [1, 0, 1, 0, 1, 1, 0, 1]) }, outLen := 8 })
      (fun t => getWord t.mem.inBuf 0 == 0xB5 && t.inLen == 8 && getWord t.mem.outBuf 0 == 0xB5) = true := by decide

theorem test_bchEnc_TE1 :
    gives (exec .bchEnc (demo (code 8 5 3) (bits [1, 0, 1, 0, 1])))
      (fun t => getWord t.mem.outBuf 0 == 0xB5 && t.outLen == 8 && t.statusWord == 0x202) = true := by decide

theorem test_bchEnc_TE5 :
    encodeWord (bits [1, 1, 0, 0, 1, 0, 1, 1, 1, 0, 0, 1]) = bits [1, 1, 0, 0, 1, 0, 1, 1, 1, 0, 0, 1, 0, 1, 0] := by decide

theorem test_bchDec_TD8 :
    gives (exec .bchDec (demo (code 8 5 3) (bits [1, 0, 1, 0, 1, 1, 0, 0])))
      (fun t => t.synd == 1 && t.corrPos == 0 && getWord t.mem.outBuf 0 == 0x14 && t.outLen == 5 && t.statusWord == 0x242)
      = true := by decide

theorem test_bchDec_TD15 :
    gives (exec .bchDec (demo (code 4 1 1) (bits [0, 1, 1, 1])))
      (fun t => t.synd == 7 && t.corrPos == 0 && getWord t.mem.outBuf 0 == 0 && t.outLen == 1 && t.statusWord == 0x262)
      = true := by decide

theorem test_repEnc_TRE1 :
    gives (exec .repEnc (demo (code 8 5 3) (bits [1, 0])))
      (fun t => getWord t.mem.outBuf 0 == 0x07 && t.outLen == 6 && t.statusWord == 0x202) = true := by decide

theorem test_repEnc_TRE7 :
    gives (exec .repEnc (demo (code 8 5 65535) (bits [1]))) (fun t => t.statusWord == 0x20E && t.outLen == 0) = true := by
  decide

theorem test_repDec_TRD2 :
    gives (exec .repDec (demo (code 8 5 3) (bits [1, 0, 0, 1, 1, 1, 0])))
      (fun t => getWord t.mem.outBuf 0 == 0b010 && t.outLen == 3 && t.statusWord == 0x282) = true := by decide

theorem test_repDec_TRD4 :
    gives (exec .repDec (demo (code 8 5 4) (bits [1, 1, 0, 0, 1, 1, 1, 0])))
      (fun t => getWord t.mem.outBuf 0 == 0b10 && t.outLen == 2 && t.statusWord == 0x202) = true := by decide

theorem test_bscTx_TB1 :
    gives (exec .bscTx (supplied [0x0000, 0x8000, 0x7FFF, 0xFFFF, 0x1234] (demo (channel 32768 0 0 0 0) (bits [1, 1, 1, 1]))))
      (fun t => getWord t.mem.outBuf 0 == 0b1010 && t.outLen == 4 && t.port == [0x1234] && t.statusWord == 0x202) = true := by
  decide

/-- A starved command waits with BUSY = 1, keeping the draws it took (R160, R244). -/
theorem test_bscTx_waits :
    gives (exec .bscTx (running .bscTx (supplied [0x0000] (demo (channel 32768 0 0 0 0) (bits [1, 1])))))
      (fun t => t.inflight == some { word := 8, taken := [0x0000] } && t.port == [] && t.outLen == 0) = true := by decide

theorem test_geTx_TG2 :
    gives (exec .geTx (supplied [0x0FFF, 0x3FFF, 0x8000, 0x2000, 0x7FFF, 0x1FFF, 0x1000, 0xFFFF]
        (demo (channel 0 0x1000 0x8000 0x4000 0x2000) (bits [0, 0, 0, 0]))))
      (fun t => getWord t.mem.outBuf 0 == 0b0101 && t.geState == .good && t.port == []) = true := by decide

theorem test_geTx_TG1 :
    gives (exec .geTx (supplied (List.replicate 12 0x5555) (demo (channel 0 0 65536 65536 0) (bits [1, 1, 1, 0, 0, 0]))))
      (fun t => getWord t.mem.outBuf 0 == 0x39 && t.statusWord == 0x302) = true := by decide

theorem test_syndromes_TS1 :
    (List.range 8).map (fun j => syndrome 5 (unitWord 8 j)) = [1, 5, 7, 6, 3, 4, 2, 1] := by decide

/-- TE12, TF2: NOT_CONFIGURED before LENGTH, from reset. -/
theorem test_error_TE12 : gives (step (State.reset.withFetchWord 32 4)) (fun t => t.statusWord == 0x00A) = true := by decide

/-- TF1: an illegal word from reset. -/
theorem test_error_TF1 : gives (step (State.reset.withFetchWord 32 0xA)) (fun t => t.statusWord == 0x006) = true := by decide

/-! ### The bus, the interrupt, the host -/

theorem test_bus_TA1 : answer (busAccess State.reset (.write 32 0x020 0xFFFFFFFF)) (.read 32 0x020) = 0x000001FF := by decide
theorem test_bus_TA3 : answer (busAccess State.reset (.write 32 0x02C 0xFFFFFFFF)) (.read 32 0x02C) = 0x0001FFFF := by decide
theorem test_bus_TA7 : (busAccess State.reset (.read 32 0x002)).resp = some { error := true, data := 0 } := by decide
theorem test_bus_width : (busAccess State.reset (.write 8 0x020 1)).cfg.n = 0 := by decide
theorem test_bus_TA8 :
    answer (busAccess { demo (code 8 5 3) [] with mem := { inBuf := zeros 256, outBuf := padTo 256 (bits [1, 0, 1, 0, 1, 1, 0, 1]) } }
      (.write 32 0x2000 0)) (.read 32 0x2000) = 0x000000B5 := by decide
theorem test_bus_TA11 :
    let t := busAccess { State.reset with done := true, ovr := true } (.write 32 0x004 0x002)
    (t.done, t.ovr) = (false, true) := by decide
theorem test_bus_TA13 : answer (busAccess State.reset (.write 32 0x014 0x12345)) (.read 32 0x014) = 0x2345 := by decide
theorem test_bus_last_in_word :
    locate 256 0x101C = .inWord 7 ∧ locate 256 0x1020 = .reserved ∧ locate 256 0x201C = .outWord 7 := by decide
theorem test_byteLane : byteLane 0x000000B5 0 = 0xB5 ∧ byteLane 0x12345678 3 = 0x12 := by decide
theorem test_busAddr : busAddr { bufBits := 256, base := 0x4000 } 0x1004 = 0x5004 := by decide
theorem test_ldin_TA9 :
    Script.ldin (zeros 32 ++ [true]) = [Script.wr 0x1000 0, Script.wr 0x1004 1, Script.wr 0x014 33] := by decide
theorem test_ldin_TA10 : Script.ldin (bits [1, 0, 1, 0, 1]) = [Script.wr 0x1000 0x15, Script.wr 0x014 5] := by decide
theorem test_run : Script.run .bchEnc = [Script.wr 0x000 4, .wait] := by decide

/-- TF9: a write while BUSY = 1 is dropped with OVR = 1. -/
theorem test_busy_TF9 :
    let t := busAccess (running .bscTx (demo (code 8 5 3) (bits [1]))) (.write 32 0x014 7)
    (t.inLen, t.ovr, t.resp) = (1, true, some { error := false, data := 0 }) := by decide

/-- TF5, TF7: IRQ follows DONE and DONE_IE. -/
theorem test_irq_TF5 :
    gives (exec .nop { State.reset with doneIe := true }) (fun t => t.irq && !(busAccess t (.write 32 0x008 0)).irq) = true := by
  decide

/-- `wait` stays while BUSY = 1 and goes on when BUSY = 0 (R97). -/
theorem test_wait :
    gives (hostMove { running .nop State.reset with host := [.wait] }) (fun t => t.host == [.wait]) = true ∧
    gives (hostMove { State.reset with host := [.wait] }) (fun t => t.host == []) = true := by decide

/-- A read's value is kept for the host (R96). -/
theorem test_rd :
    gives (hostMove { State.reset with done := true, host := [Script.rd 0x004] }) (fun t => t.reads == [0x002]) = true := by
  decide

/-- TF10: a second CMD write meets the running command, or the completed one. -/
theorem test_schedule_TF10 :
    gives (step { running .nop State.reset with host := [Script.wr 0x000 0], sched := [.host] }) (fun t => t.ovr) = true ∧
    gives (step { running .nop State.reset with sched := [.seq] })
      (fun t => !t.busy && !(busAccess t (.write 32 0x000 0)).ovr) = true := by decide

/-- R190: a run whose last line is `wait` ends when the read finds BUSY = 0; a run also ends at an accepted CMD write. -/
theorem test_run_ends_wait : RunEnds { State.reset with host := [.wait] } { busAccess State.reset (.read 32 0x004) with host := [] } :=
  ⟨_, .refl, by decide, rfl, by decide⟩
theorem test_run_ends_cmd :
    RunEnds { State.reset with host := [Script.wr 0x000 0] } (busAccess State.reset (.write 32 0x000 0)) :=
  ⟨_, .refl, by decide, rfl, by decide⟩

/-- R190: a last access that meets BUSY = 1 ends no run, nor does one with an access after it. -/
theorem test_run_goes_on :
    lastAccessIdle { running .nop State.reset with host := [.wait], sched := [.host] } = false ∧
    lastAccessIdle { running .nop State.reset with host := [Script.rd 0x004], sched := [.hostWithSeq] } = false ∧
    lastAccessIdle { State.reset with host := [Script.rd 0x004, .wait] } = false ∧
    lastAccessIdle State.reset = false := by decide

/-- A host access while the reset input is asserted (U8). -/
theorem test_access_in_reset :
    step { State.reset with rstPin := true, host := [Script.rd 0x004] } = .fault .accessInReset := by rfl

theorem test_reset_TZ2 :
    gives (step { running .geTx (demo (code 8 5 3) (bits [1])) with geState := .bad, sched := [.assertReset] })
      (fun t => t.statusWord == 0 && t.rstPin) = true := by decide

/-! ### Witnesses: a concrete state and operands for the hypotheses of every statement -/

/-- `10101` with k = 5, n = 8, r = 3, the input of vector TE1. -/
def msgState : State := demo (code 8 5 3) (bits [1, 0, 1, 0, 1])

/-- The codeword of TE1 with bit 7 flipped (TD8). -/
def wordState : State := demo (code 8 5 3) (bits [1, 0, 1, 0, 1, 1, 0, 0])

/-- The clean codeword of TE1. -/
def cleanState : State := demo (code 8 5 3) (bits [1, 0, 1, 0, 1, 1, 0, 1])

/-- The word `0101` of TD15, k = 1, n = 4, which decodes UNCORRECTED. -/
def shortState : State := demo (code 4 1 1) (bits [0, 1, 0, 1])

theorem msgState_inv : Invariant msgState := demo_inv (by decide) (by decide)
theorem wordState_inv : Invariant wordState := demo_inv (by decide) (by decide)
theorem cleanState_inv : Invariant cleanState := demo_inv (by decide) (by decide)
theorem shortState_inv : Invariant shortState := demo_inv (by decide) (by decide)

/-- An unconfigured state that meets the invariant. -/
def bareState : State := { msgState with cfgValid := false }

theorem bareState_inv : Invariant bareState :=
  ⟨msgState_inv.params_wf, msgState_inv.mem_wf, msgState_inv.busy_clear, fun h => by simp [bareState] at h,
    msgState_inv.outLen_le, msgState_inv.branch_ok, msgState_inv.short_ok,
    fun h => by simp [bareState, msgState, demo, State.reset] at h, msgState_inv.taken_lt⟩

/-- A state of length 257 > BUF_BITS = 256. -/
def longState : State := { msgState with inLen := 257 }

theorem longState_inv : Invariant longState :=
  ⟨msgState_inv.params_wf, msgState_inv.mem_wf, msgState_inv.busy_clear, msgState_inv.cfg_legal, msgState_inv.outLen_le,
    msgState_inv.branch_ok, msgState_inv.short_ok, fun h => by simp [longState, msgState, demo, State.reset] at h,
    fun f h => by simp [longState, msgState, demo, State.reset] at h⟩

/-- A running command. -/
def busyState : State := running .bscTx msgState

theorem busyState_inv : Invariant busyState := inv_accept msgState_inv rfl _

theorem witness_OpcodeMapWordsDecode : 0xA ≤ (0xA : BitVec 4).toNat ∧ 0xA ≤ (0xF : BitVec 4).toNat := by decide

theorem witness_DecodeTotalAndUnambiguous : decode 0x9 = .instr .geTx := by decide

theorem witness_StepRunsDecodedCommand :
    (running .nop msgState).inflight = some { word := 0, taken := [] } ∧ decode 0 = .instr .nop ∧
    (running .nop msgState).sched = [] ∧ ({ running .nop msgState with sched := [.seq, .host] } : State).sched = .seq :: [.host] ∧
    (running .nop msgState).rstPin = false ∧ msgState.inflight = none ∧ msgState.busy = false ∧ msgState.rstPin = false ∧
    msgState.sched = [] := by
  decide

/-- The host's clauses: an access, `wait` with BUSY 0 and 1, the wait for IRQ, no line; and a draw. -/
theorem witness_StepRunsDecodedCommand_host :
    gives (step { msgState with sched := [.host], host := [Script.rd 0x014] }) (fun t => t.reads == [5] && t.host == []) = true ∧
    gives (step { msgState with host := [Script.rd 0x014] }) (fun t => t.reads == [5]) = true ∧
    gives (step { msgState with sched := [.hostWithSeq], host := [Script.wr 0x014 7] }) (fun t => t.inLen == 7) = true ∧
    gives (step { running .nop msgState with sched := [.hostWithSeq], host := [Script.wr 0x014 7] })
      (fun t => t.ovr && !t.busy && t.inLen == 5) = true ∧
    gives (step { msgState with sched := [.host], host := [.wait] }) (fun t => t.host == []) = true ∧
    gives (step { running .nop msgState with sched := [.host], host := [.wait] }) (fun t => t.host == [.wait]) = true ∧
    gives (step { msgState with sched := [.host], host := [.waitIrq] }) (fun t => t.host == [.waitIrq]) = true ∧
    gives (step { msgState with sched := [.host] }) (fun t => t.sched == []) = true ∧
    gives (step { msgState with sched := [.draw 7] }) (fun t => t.port == [7]) = true := by decide

theorem witness_IllegalWordCompletesWithIllegalCmd :
    ∃ s : State, s.inflight = some { word := 0xA, taken := [] } ∧ s.sched = .seq :: [] ∧
      0xA ≤ ((0xA : Word).extractLsb' 0 4).toNat ∧ (0x10 : Word).extractLsb' 4 28 ≠ 0 :=
  ⟨{ accept 0xA msgState with sched := [.seq] }, rfl, rfl, by decide, by decide⟩

theorem witness_CommandAcceptance : msgState.busy = false ∧ busyState.busy = true := by decide

theorem witness_EveryCommandCompletes :
    drawsNeeded .geTx (supplied (List.replicate 10 0) msgState).len
      ≤ (supplied (List.replicate 10 0) msgState).taken.length + (supplied (List.replicate 10 0) msgState).port.length ∧
    drawsNeeded .nop msgState.len ≤ msgState.taken.length + msgState.port.length := by decide

theorem witness_ErrorChangesNothingElse :
    ∃ t, bareState.err = .none ∧ exec .bchEnc bareState = .next t ∧ t.err ≠ .none := ⟨_, rfl, rfl, by decide⟩

theorem witness_ErrorChangesNothingElse_config :
    ∃ t, ({ msgState with cfg := code 9 5 3 } : State).err = .none ∧
      exec .config { msgState with cfg := code 9 5 3 } = .next t ∧ t.err = .config := ⟨_, rfl, rfl, by decide⟩

theorem witness_ErrorChangesNothingElse_illegal :
    (accept 0xA msgState).inflight = some { word := 0xA, taken := [] } ∧ decode 0xA = .illegal .reservedOpcode := by decide

theorem witness_ErrCodeOfCompletedCommand :
    (∃ t, (running .bchEnc bareState).busy = true ∧ exec .bchEnc (running .bchEnc bareState) = .next t ∧ t.busy = false ∧
      (running .bchEnc bareState).cfgValid = false) ∧
    (∃ t, exec .bchEnc (running .bchEnc wordState) = .next t ∧ t.busy = false ∧ lengthUnfit .bchEnc (running .bchEnc wordState)) ∧
    (∃ t, exec .bchEnc (running .bchEnc msgState) = .next t ∧ t.busy = false ∧ ¬ lengthUnfit .bchEnc (running .bchEnc msgState)) ∧
    (∃ t, exec .config (running .config msgState) = .next t ∧ t.busy = false ∧ configLegal (running .config msgState).cfg) ∧
    (∃ t, exec .config (running .config { msgState with cfg := code 9 5 3 }) = .next t ∧ t.busy = false ∧
      ¬ configLegal (code 9 5 3)) ∧
    (∃ t, exec .move (running .move msgState) = .next t ∧ t.busy = false) := by
  refine ⟨⟨_, rfl, rfl, rfl, rfl⟩, ⟨_, rfl, rfl, ?_⟩, ⟨_, rfl, rfl, ?_⟩, ⟨_, rfl, rfl, ?_⟩, ⟨_, rfl, rfl, ?_⟩, ⟨_, rfl, rfl⟩⟩
  · unfold lengthUnfit; decide
  · unfold lengthUnfit; decide
  · unfold configLegal; decide
  · unfold configLegal; decide

theorem witness_StarvedChannelCommandWaits :
    busyState.inflight = some { word := 8, taken := [] } ∧ busyState.cfgValid = true ∧
    busyState.inLen.toNat ≤ busyState.params.bufBits ∧ ([] : List Draw).length + busyState.port.length < drawsNeeded .bscTx busyState.len := by
  decide

theorem witness_DrawsTakenExactly :
    ∃ t, (supplied (List.replicate 10 0) busyState).busy = true ∧ (supplied (List.replicate 10 0) busyState).taken = [] ∧
      exec .geTx (supplied (List.replicate 10 0) busyState) = .next t ∧ t.busy = false ∧ t.err = .none :=
  ⟨_, rfl, rfl, rfl, rfl, rfl⟩

theorem witness_DrawsTakenExactly_error :
    ∃ t, (running .bscTx bareState).busy = true ∧ (running .bscTx bareState).taken = [] ∧
      exec .bscTx (running .bscTx bareState) = .next t ∧ t.busy = false ∧ t.err ≠ .none := ⟨_, rfl, rfl, rfl, rfl, by decide⟩

theorem witness_ConfigLatchesLegalConfiguration :
    configLegal (code 4 1 1) ∧ configLegal (code 256 253 65535) ∧ ¬ configLegal (code 257 254 1) ∧ ¬ configLegal (code 3 0 1) ∧
    ∃ t, exec .config bareState = .next t ∧ bareState.cfgValid = false ∧ t.cfgValid = true := by
  refine ⟨?_, ?_, ?_, ?_, _, rfl, rfl, rfl⟩ <;> unfold configLegal <;> decide

theorem witness_MoveCopiesOutToIn : ∃ t, exec .move msgState = .next t := ⟨_, rfl⟩

theorem witness_BchEncResult : Invariant msgState ∧ msgState.cfgValid = true ∧ msgState.inLen.toNat = msgState.act.k.toNat :=
  ⟨msgState_inv, by decide, by decide⟩

theorem witness_BchEncResult_length :
    Invariant wordState ∧ wordState.cfgValid = true ∧ wordState.inLen.toNat ≠ wordState.act.k.toNat :=
  ⟨wordState_inv, by decide, by decide⟩

/-- Also the NOT_CONFIGURED clause of the other data commands. -/
theorem witness_BchEncResult_notConfigured : Invariant bareState ∧ bareState.cfgValid = false := ⟨bareState_inv, rfl⟩

/-- The CORRECTED clause: syndrome 1, least index 0. -/
theorem witness_BchDecResult :
    Invariant wordState ∧ wordState.cfgValid = true ∧ wordState.inLen.toNat = wordState.act.n.toNat ∧
    syndrome 5 (wordState.mem.inBuf.take 8) ≠ 0 ∧ syndrome 5 (flipBit (wordState.mem.inBuf.take 8) 0) = 0 :=
  ⟨wordState_inv, by decide, by decide, by decide, by decide⟩

theorem witness_BchDecResult_clean :
    Invariant cleanState ∧ cleanState.cfgValid = true ∧ cleanState.inLen.toNat = cleanState.act.n.toNat ∧
    syndrome 5 (cleanState.mem.inBuf.take 8) = 0 := ⟨cleanState_inv, by decide, by decide, by decide⟩

theorem witness_BchDecResult_uncorrected :
    Invariant shortState ∧ shortState.cfgValid = true ∧ shortState.inLen.toNat = shortState.act.n.toNat ∧
    syndrome 1 (shortState.mem.inBuf.take 4) ≠ 0 ∧
    ∀ i, i < 4 → syndrome 1 (flipBit (shortState.mem.inBuf.take 4) i) ≠ 0 :=
  ⟨shortState_inv, by decide, by decide, by decide, by decide⟩

theorem witness_BchDecResult_length :
    Invariant msgState ∧ msgState.cfgValid = true ∧ msgState.inLen.toNat ≠ msgState.act.n.toNat :=
  ⟨msgState_inv, by decide, by decide⟩

theorem witness_DivisionLoop : (bits [1, 0, 1, 1]).length = 1 + 3 ∧ 0 < 1 := by decide

theorem witness_SyndromeIsPolynomialRemainder : (bits [1, 0, 0, 0, 1, 1, 0, 1]).length = 5 + 3 := by decide

theorem witness_SyndromeLinearWithPeriodSeven :
    (bits [1, 0, 1, 1]).length = 1 + 3 ∧ (bits [0, 1, 1, 1]).length = 1 + 3 ∧ (0 : Nat) < 5 + 3 ∧ (7 : Nat) < 5 + 3 := by decide

theorem witness_SearchTakesLeastIndexBelowSeven :
    (bits [1, 0, 1, 0, 1, 1, 0, 0]).length = 5 + 3 ∧ syndrome 5 (bits [1, 0, 1, 0, 1, 1, 0, 0]) ≠ 0 ∧
    search 5 (bits [1, 0, 1, 0, 1, 1, 0, 0]) = some 0 ∧
    syndrome 5 (flipBit (bits [1, 0, 1, 0, 1, 1, 0, 0]) 7) = 0 := by decide

theorem witness_BchRoundTrip :
    Invariant (supplied (List.replicate 8 0xFFFF) msgState) ∧ msgState.cfgValid = true ∧
    msgState.inLen.toNat = msgState.act.k.toNat ∧ msgState.act.pBsc = 0 ∧
    msgState.act.n.toNat ≤ (supplied (List.replicate 8 0xFFFF) msgState).port.length :=
  ⟨supplied_inv msgState_inv _, by decide, by decide, by decide, by decide⟩

/-- j = 7, the error the decoder miscorrects. -/
theorem witness_SingleErrorDecoding :
    Invariant wordState ∧ wordState.cfgValid = true ∧ wordState.inLen.toNat = wordState.act.n.toNat ∧
    (bits [1, 0, 1, 0, 1]).length = wordState.act.k.toNat ∧ 7 < wordState.act.n.toNat ∧
    wordState.mem.inBuf.take wordState.act.n.toNat = flipBit (encodeWord (bits [1, 0, 1, 0, 1])) 7 :=
  ⟨wordState_inv, by decide, by decide, by decide, by decide, by decide⟩

/-- j = 6, the last index at which the message comes back. -/
theorem witness_SingleErrorDecoding_boundary :
    ∃ s : State, Invariant s ∧ s.cfgValid = true ∧ s.inLen.toNat = s.act.n.toNat ∧
      (bits [1, 0, 1, 0, 1]).length = s.act.k.toNat ∧ 6 < s.act.n.toNat ∧
      s.mem.inBuf.take s.act.n.toNat = flipBit (encodeWord (bits [1, 0, 1, 0, 1])) 6 :=
  ⟨demo (code 8 5 3) (bits [1, 0, 1, 0, 1, 1, 1, 1]), demo_inv (by decide) (by decide), by decide, by decide, by decide,
    by decide, by decide⟩

/-- TD10: indices 0 and 7, congruent modulo 7. -/
theorem witness_DoubleErrorDecoding :
    ∃ s : State, Invariant s ∧ s.cfgValid = true ∧ s.inLen.toNat = s.act.n.toNat ∧
      (bits [1, 0, 1, 0, 1]).length = s.act.k.toNat ∧ (0 : Nat) < 7 ∧ 7 < s.act.n.toNat ∧
      s.mem.inBuf.take s.act.n.toNat = flipBit (flipBit (encodeWord (bits [1, 0, 1, 0, 1])) 0) 7 ∧ 0 % 7 = 7 % 7 :=
  ⟨demo (code 8 5 3) (bits [0, 0, 1, 0, 1, 1, 0, 0]), demo_inv (by decide) (by decide), by decide, by decide, by decide,
    by decide, by decide, by decide, by decide⟩

/-- TD11: indices 1 and 2, not congruent modulo 7. -/
theorem witness_DoubleErrorDecoding_miscorrected :
    ∃ s : State, Invariant s ∧ s.cfgValid = true ∧ s.inLen.toNat = s.act.n.toNat ∧
      (bits [1, 0, 1, 0, 1]).length = s.act.k.toNat ∧ (1 : Nat) < 2 ∧ 2 < s.act.n.toNat ∧
      s.mem.inBuf.take s.act.n.toNat = flipBit (flipBit (encodeWord (bits [1, 0, 1, 0, 1])) 1) 2 ∧ 1 % 7 ≠ 2 % 7 ∧
      7 ≤ s.act.n.toNat :=
  ⟨demo (code 8 5 3) (bits [1, 1, 0, 0, 1, 1, 0, 1]), demo_inv (by decide) (by decide), by decide, by decide, by decide,
    by decide, by decide, by decide, by decide, by decide⟩

theorem witness_UncorrectedBranchExactly :
    1 ≤ 1 ∧ (bits [0, 1, 0, 1]).length = 1 + 3 ∧ syndrome 1 (bits [0, 1, 0, 1]) = 5 ∧
    (decodeWord 1 (bits [0, 1, 0, 1])).branch = .uncorrected ∧
    (bits [0, 1, 0, 0]).length = 1 + 3 ∧ (decodeWord 1 (bits [0, 1, 0, 0])).branch = .corrected := by decide

theorem witness_RepEncResult :
    Invariant msgState ∧ msgState.cfgValid = true ∧ msgState.inLen.toNat ≤ msgState.params.bufBits ∧
    msgState.inLen.toNat * msgState.act.rep.toNat ≤ msgState.params.bufBits :=
  ⟨msgState_inv, by decide, by decide, by decide⟩

/-- Also the LENGTH clause of REP_DEC, BSC_TX and GE_TX: IN_LEN = 257 > 256. -/
theorem witness_RepEncResult_length :
    Invariant longState ∧ longState.cfgValid = true ∧ longState.params.bufBits < longState.inLen.toNat :=
  ⟨longState_inv, by decide, by decide⟩

theorem witness_RepDecResult :
    Invariant wordState ∧ wordState.cfgValid = true ∧ wordState.inLen.toNat ≤ wordState.params.bufBits ∧
    wordState.inLen.toNat % wordState.act.rep.toNat ≠ 0 := ⟨wordState_inv, by decide, by decide, by decide⟩

theorem witness_MajorityOfThree :
    ∃ s : State, Invariant s ∧ s.cfgValid = true ∧ s.act.rep = 3 ∧ s.inLen.toNat ≤ s.params.bufBits ∧ s.inLen.toNat % 3 = 0 ∧
      1 < s.inLen.toNat / 3 :=
  ⟨demo (code 8 5 3) (bits [1, 1, 0, 0, 0, 1]), demo_inv (by decide) (by decide), by decide, by decide, by decide, by decide,
    by decide⟩

theorem witness_RepetitionRoundTrip :
    Invariant msgState ∧ msgState.cfgValid = true ∧ msgState.inLen.toNat * msgState.act.rep.toNat ≤ msgState.params.bufBits ∧
    (bits [1, 0, 1]).count (!true) ≤ 1 ∧ 2 * 1 < (bits [1, 0, 1]).length ∧
    (bits [1, 0]).count (!false) ≤ 1 ∧ 2 * 1 ≤ (bits [1, 0]).length :=
  ⟨msgState_inv, by decide, by decide, by decide, by decide, by decide, by decide⟩

theorem witness_BernoulliEvent : (0 : Prob).toNat ≤ 65536 ∧ (65536 : Prob).toNat ≤ 65536 := by decide

theorem witness_BscTxResult :
    Invariant (supplied (List.replicate 5 1) msgState) ∧ (supplied (List.replicate 5 1) msgState).cfgValid = true ∧
    (supplied (List.replicate 5 1) msgState).inLen.toNat ≤ (supplied (List.replicate 5 1) msgState).params.bufBits ∧
    (supplied (List.replicate 5 1) msgState).inLen.toNat ≤ (drawsOf (supplied (List.replicate 5 1) msgState)).length :=
  ⟨supplied_inv msgState_inv _, by decide, by decide, by decide⟩

theorem witness_GeTxResult :
    Invariant (supplied (List.replicate 10 1) msgState) ∧ (supplied (List.replicate 10 1) msgState).cfgValid = true ∧
    (supplied (List.replicate 10 1) msgState).inLen.toNat ≤ (supplied (List.replicate 10 1) msgState).params.bufBits ∧
    2 * (supplied (List.replicate 10 1) msgState).inLen.toNat ≤ (drawsOf (supplied (List.replicate 10 1) msgState)).length :=
  ⟨supplied_inv msgState_inv _, by decide, by decide, by decide⟩

theorem witness_DrawIndependentSettings :
    ∃ s : State, Invariant s ∧ s.cfgValid = true ∧ s.inLen.toNat ≤ s.params.bufBits ∧ 2 * s.inLen.toNat ≤ (drawsOf s).length ∧
      s.act.pGood = 0 ∧ s.act.pBad = 65536 ∧ s.act.pG2b = 65536 ∧ s.act.pB2g = 0 ∧ s.geState = .good ∧ 1 ≤ s.inLen.toNat :=
  ⟨supplied (List.replicate 4 7) (demo (channel 0 0 65536 65536 0) (bits [1, 0])),
    supplied_inv (demo_inv (by decide) (by decide)) _, by decide⟩

theorem witness_DrawIndependentSettings_functions :
    ((65536 : Prob) = 0 ∨ (65536 : Prob) = 65536) ∧ (bits [1]).length ≤ ([3] : List Draw).length ∧
    (bits [1]).length ≤ ([9] : List Draw).length ∧ 2 * (bits [1]).length ≤ ([3, 4] : List Draw).length := by decide

theorem witness_StateHold :
    ∃ s : State, Invariant s ∧ s.cfgValid = true ∧ s.inLen.toNat ≤ s.params.bufBits ∧ 2 * s.inLen.toNat ≤ (drawsOf s).length ∧
      s.act.pGood = 0 ∧ s.act.pBad = 65536 ∧ s.act.pG2b = 0 ∧ s.act.pB2g = 0 ∧ s.geState = .good :=
  ⟨supplied (List.replicate 4 7) (demo (channel 0 0 65536 0 0) (bits [1, 0])),
    supplied_inv (demo_inv (by decide) (by decide)) _, by decide⟩

theorem witness_IllegalAccessGetsError :
    (BusAccess.read 16 0x000).width ≠ 32 ∧ (BusAccess.read 32 0x3FFF).off.toNat % 4 ≠ 0 ∧
    (BusAccess.write 32 0x3FFC 0).width = 32 ∧ (BusAccess.write 32 0x3FFC 0).off.toNat % 4 = 0 := by decide

theorem witness_ReservedLocationsReadZeroIgnoreWrites :
    msgState.params.wf = true ∧ reservedOff 256 0x01C ∧ reservedOff 256 0x040 ∧ reservedOff 256 0x0FFC ∧
    reservedOff 256 0x1020 ∧ reservedOff 256 0x2020 ∧ reservedOff 256 0x3FFC := by
  unfold reservedOff; decide

theorem witness_RwRegistersKeepTheirFields :
    ((0x03C : Offset), (0x1FFFF : Word)) ∈ rwRegisters ∧ msgState.busy = false ∧ busyState.busy = true ∧ (0x03C : Offset) ≠ 0x008 := by
  decide

theorem witness_ReadOnlyLocationsIgnoreWrites : msgState.params.wf = true ∧ 7 < msgState.params.bufBits / 32 := by decide

theorem witness_StatusCmdAndInWindowWrites :
    Invariant msgState ∧ msgState.busy = false ∧ 0 < msgState.params.bufBits / 32 ∧ 7 < msgState.params.bufBits / 32 :=
  ⟨msgState_inv, by decide, by decide, by decide⟩

theorem witness_WindowBitOrder :
    msgState.params.wf = true ∧ msgState.busy = false ∧ 0 < msgState.params.bufBits / 32 ∧ 7 < msgState.params.bufBits / 32 := by
  decide

theorem witness_WritesWhileBusy :
    busyState.params.wf = true ∧ busyState.busy = true ∧ 7 < busyState.params.bufBits / 32 ∧ reservedOff 256 0x040 := by
  unfold reservedOff; decide

theorem witness_ReadsWhileBusy : Invariant busyState ∧ busyState.busy = true ∧ 7 < busyState.params.bufBits / 32 :=
  ⟨busyState_inv, by decide, by decide⟩

theorem witness_StatusLayout : msgState.busy = false := by decide

theorem witness_IrqIsDoneAndEnable : Invariant busyState ∧ busyState.busy = true := ⟨busyState_inv, by decide⟩

theorem witness_CompletionWinsOverClear :
    ∃ s t : State, s.sched = .hostWithSeq :: [] ∧ s.rstPin = false ∧ s.host = Script.wr 0x004 2 :: [] ∧ s.busy = true ∧
      step s = .next t ∧ t.busy = false :=
  ⟨{ running .nop msgState with sched := [.hostWithSeq], host := [Script.wr 0x004 2] }, _, rfl, rfl, rfl, rfl, rfl, rfl⟩

theorem witness_CommandsIgnoreConfigRegisters : ∃ t, Instr.bchEnc ≠ .config ∧ exec .bchEnc msgState = .next t :=
  ⟨_, by decide, rfl⟩

theorem witness_InputsBeyondLengthNotRead :
    ∃ t, isData .bchEnc = true ∧
      (padTo 256 (bits [1, 0, 1, 0, 1, 1, 1])).take msgState.inLen.toNat = msgState.mem.inBuf.take msgState.inLen.toNat ∧
      exec .bchEnc msgState = .next t := ⟨_, by decide, by decide, rfl⟩

theorem witness_StepKeepsInvariant : ∃ t, Invariant busyState ∧ step busyState = .next t := ⟨_, busyState_inv, rfl⟩

theorem witness_ResetAbandonsAndClears :
    ({ busyState with sched := [.assertReset, .releaseReset] } : State).sched = .assertReset :: [.releaseReset] := rfl

/-- A step that changes the active configuration, for `OnlyConfigWritesActive` and `CfgValidWriters`. -/
theorem witness_OnlyConfigWritesActive :
    ∃ s t : State, step s = .next t ∧ t.act ≠ s.act ∧ s.cfgValid = false ∧ t.cfgValid = true :=
  ⟨running .config { bareState with act := code 4 1 1 }, _, rfl, by decide, rfl, rfl⟩

theorem witness_CfgValidWriters :
    ∃ s t : State, step s = .next t ∧ s.cfgValid = true ∧ t.cfgValid = false :=
  ⟨running .config { msgState with cfg := code 9 5 3 }, _, rfl, rfl, rfl⟩

theorem witness_GeStateWriters : ∃ s t : State, step s = .next t ∧ t.geState ≠ s.geState :=
  ⟨running .chReset { msgState with geState := .bad }, _, rfl, by decide⟩

theorem witness_ResultRegisterWriters :
    ∃ s t : State, step s = .next t ∧ s.sched.head? ≠ some .assertReset ∧ t.synd ≠ s.synd ∧ t.outLen ≠ s.outLen :=
  ⟨running .bchDec wordState, _, rfl, by decide, by decide, by decide⟩

theorem witness_InputsStableWhileBusy :
    ∃ s t : State, step s = .next t ∧ s.busy = true ∧ s.sched.head? ≠ some .assertReset ∧ t.inLen ≠ s.inLen :=
  ⟨running .move msgState, _, rfl, rfl, by decide, by decide⟩

theorem witness_StepFaultsOnlyInReset :
    step { State.reset with rstPin := true, host := [Script.rd 0x004] } = .fault .accessInReset ∧
    step { State.reset with rstPin := true, host := [.wait], sched := [.hostWithSeq] } = .fault .accessInReset ∧
    (Script.rd 0x004).onBus = true := ⟨rfl, rfl, rfl⟩

theorem witness_HostDutyAndUncorruptedCommands :
    hostAccessSafe msgState (.write 32 0x014 7) = true ∧ hostAccessSafe busyState (.read 32 0x004) = true ∧
    hostAccessSafe busyState (.read 32 0x020) = true ∧ locate 256 0x020 ≠ .status ∧
    hostAccessSafe busyState (.write 32 0x014 7) = false ∧ busyState.busy = true := by decide

end Sys2Proof.Tests
end

section
/-! What one command and one step can do to the architectural registers, and the statements on STATUS, IRQ and the writers
of the configuration, the channel state and the result registers (spec 10_state.md). -/

namespace Sys2Proof.Machine

open Sys2Proof.Claims

/-! ### What a command can do -/

/-- The length check of a data command, per command (R203). -/
def lengthFits (i : Instr) (s : State) : Bool :=
  match i with
  | .bchEnc => decide (s.len = s.k)
  | .bchDec => decide (s.len = s.n)
  | .repEnc => decide (s.len ≤ s.bufBits) && decide (s.len * s.r ≤ s.bufBits)
  | .repDec | .bscTx | .geTx => decide (s.len ≤ s.bufBits)
  | .nop | .config | .chReset | .move => true

/-- The draws handed to a command that needs `n`: those it has taken, then those on the port (R160). -/
def State.drawn (s : State) (n : Nat) : List Draw := (s.taken ++ s.port).take n

/-- The state in which a command that needs `n` draws goes on: the port is left with the draws beyond them (R160). -/
def State.afterDraws (s : State) (n : Nat) : State := { s with port := s.port.drop (n - s.taken.length) }

/-- `Runs i s t`: in the state `s` the command `i` answers the state `t`. One constructor per way a command can end or wait,
with its guards (R160, R185 to R189, R202, R203). -/
inductive Runs : Instr → State → State → Prop
  | nop {s} : Runs .nop s (complete s)
  | configured {s} (legal : legalConfig s.cfg = true) :
      Runs .config s (complete { s with act := s.cfg, cfgValid := true, geState := .good })
  | misconfigured {s} (illegal : legalConfig s.cfg = false) : Runs .config s (raise .config { s with cfgValid := false })
  | chReset {s} : Runs .chReset s (complete { s with geState := .good })
  | move {s} : Runs .move s (complete { s with mem := { s.mem with inBuf := s.mem.outBuf }, inLen := s.outLen })
  | notConfigured {i s} (data : isData i = true) (invalid : s.cfgValid = false) : Runs i s (raise .notConfigured s)
  | badLength {i s} (data : isData i = true) (valid : s.cfgValid = true) (unfit : lengthFits i s = false) :
      Runs i s (raise .length s)
  | waits {i s} (data : isData i = true) (valid : s.cfgValid = true) (fits : lengthFits i s = true)
      (few : s.taken.length + s.port.length < drawsNeeded i s.len) :
      Runs i s { s.setTaken (s.taken ++ s.port) with port := [] }
  | bchEnc {s} (valid : s.cfgValid = true) (fits : lengthFits .bchEnc s = true) :
      Runs .bchEnc s (complete (writeOut (encodeWord s.input) s))
  | bchDec {s} (valid : s.cfgValid = true) (fits : lengthFits .bchDec s = true) :
      Runs .bchDec s (complete { writeOut (decodeWord s.k s.input).msg s with
        synd := syndrome s.k s.input, corrPos := BitVec.ofNat 8 (decodeWord s.k s.input).pos
        branch := (decodeWord s.k s.input).branch })
  | repEnc {s} (valid : s.cfgValid = true) (fits : lengthFits .repEnc s = true) :
      Runs .repEnc s (complete (writeOut (replicateBits s.r s.input) s))
  | repDec {s} (valid : s.cfgValid = true) (fits : lengthFits .repDec s = true) :
      Runs .repDec s (complete { writeOut ((groups s.r s.input).map majority) s with short := shortFlag s.len s.r })
  | bscTx {s} (valid : s.cfgValid = true) (fits : lengthFits .bscTx s = true)
      (enough : drawsNeeded .bscTx s.len ≤ s.taken.length + s.port.length) :
      Runs .bscTx s (complete (writeOut (bsc s.act.pBsc s.input (s.drawn (drawsNeeded .bscTx s.len)))
        (s.afterDraws (drawsNeeded .bscTx s.len))))
  | geTx {s} (valid : s.cfgValid = true) (fits : lengthFits .geTx s = true)
      (enough : drawsNeeded .geTx s.len ≤ s.taken.length + s.port.length) :
      Runs .geTx s (complete
        { writeOut (geRun s.act s.geState s.input (s.drawn (drawsNeeded .geTx s.len))).1
            (s.afterDraws (drawsNeeded .geTx s.len)) with
          geState := (geRun s.act s.geState s.input (s.drawn (drawsNeeded .geTx s.len))).2 })

/-- Every data command makes the shared checks first, with its own length check (R202, R203, R206). -/
theorem exec_data {i : Instr} (hi : isData i = true) (s : State) :
    ∃ body, exec i s = dataCommand (lengthFits i s) s body := by
  cases i with
  | bchEnc | bchDec | repEnc | repDec | bscTx | geTx => exact ⟨_, rfl⟩
  | nop | config | chReset | move => cases hi

/-- A data command that answers `t` is rejected by a check, or passed both and its body answers `t`. -/
theorem runs_of_dataCommand {i : Instr} {s t : State} {body : Result} (hi : isData i = true)
    (h : dataCommand (lengthFits i s) s body = .next t)
    (hb : s.cfgValid = true → lengthFits i s = true → body = .next t → Runs i s t) : Runs i s t := by
  rcases dataCommand_cases (lengthFits i s) s body with ⟨hv, hd⟩ | ⟨hv, hf, hd⟩ | ⟨hv, hf, hd⟩
  · cases hd.symm.trans h; exact .notConfigured hi hv
  · cases hd.symm.trans h; exact .badLength hi hv hf
  · exact hb hv hf (hd.symm.trans h)

/-- A data command past its checks that needs draws waits for them, or goes on with all of them (R160, R244). -/
theorem runs_of_withDraws {i : Instr} {s t : State} {body : List Draw → State → Result} (hi : isData i = true)
    (hv : s.cfgValid = true) (hf : lengthFits i s = true) (h : withDraws (drawsNeeded i s.len) s body = .next t)
    (hb : drawsNeeded i s.len ≤ s.taken.length + s.port.length →
      body (s.drawn (drawsNeeded i s.len)) (s.afterDraws (drawsNeeded i s.len)) = .next t → Runs i s t) : Runs i s t := by
  rcases withDraws_cases (drawsNeeded i s.len) s body with ⟨hn, hd⟩ | ⟨hn, hd⟩
  · exact hb hn (hd.symm.trans h)
  · cases hd.symm.trans h; exact .waits hi hv hf hn

/-- `Runs` holds of whatever a command answers: the inversion lemma of `exec`. -/
theorem runs_of_exec {i : Instr} {s t : State} (h : exec i s = .next t) : Runs i s t := by
  cases i with
  | nop => cases h; exact .nop
  | config =>
    simp only [exec, execConfig] at h
    split at h <;> cases h
    · exact .configured ‹_›
    · exact .misconfigured (Bool.eq_false_iff.mpr ‹_›)
  | chReset => cases h; exact .chReset
  | move => cases h; exact .move
  | bchEnc => exact runs_of_dataCommand rfl h fun hv hf hb => by cases hb; exact .bchEnc hv hf
  | bchDec => exact runs_of_dataCommand rfl h fun hv hf hb => by cases hb; exact .bchDec hv hf
  | repEnc => exact runs_of_dataCommand rfl h fun hv hf hb => by cases hb; exact .repEnc hv hf
  | repDec => exact runs_of_dataCommand rfl h fun hv hf hb => by cases hb; exact .repDec hv hf
  | bscTx =>
    exact runs_of_dataCommand rfl h fun hv hf hb =>
      runs_of_withDraws rfl hv hf hb fun hn hb => by cases hb; exact .bscTx hv hf hn
  | geTx =>
    exact runs_of_dataCommand rfl h fun hv hf hb =>
      runs_of_withDraws rfl hv hf hb fun hn hb => by cases hb; exact .geTx hv hf hn

/-- `Runs` holds of nothing else. -/
theorem exec_of_runs {i : Instr} {s t : State} (h : Runs i s t) : exec i s = .next t := by
  cases h with
  | nop | chReset | move => rfl
  | configured hl => exact if_pos hl
  | misconfigured hl => exact if_neg (Bool.eq_false_iff.mp hl)
  | notConfigured hi hv =>
    obtain ⟨body, hb⟩ := exec_data hi s
    simp [hb, dataCommand, hv]
  | badLength hi hv hf =>
    obtain ⟨body, hb⟩ := exec_data hi s
    simp [hb, dataCommand, hv, hf]
  | waits hi hv hf hn =>
    cases i with
    | bscTx | geTx => exact (dataCommand_runs hv hf _).trans (withDraws_waits hn _)
    | _ => cases hn
  | bchEnc hv hf | bchDec hv hf | repEnc hv hf | repDec hv hf => exact dataCommand_runs hv hf _
  | bscTx hv hf hn | geTx hv hf hn => exact (dataCommand_runs hv hf _).trans (withDraws_enough hn _)

/-! ### Which commands write which registers -/

/-- Only a successful CONFIG writes the active configuration (R48, R185). -/
theorem Runs.act_writer {i : Instr} {s t : State} (h : Runs i s t) :
    t.act = s.act ∨ (i = .config ∧ t.busy = false ∧ t.cfgValid = true ∧ t.act = s.cfg) := by
  cases h with
  | configured => exact .inr ⟨rfl, rfl, rfl, rfl⟩
  | _ => exact .inl rfl

/-- CONFIG latches legal values and sets CFG_VALID, or raises CONFIG and clears it (R31, R185). -/
theorem Runs.config_outcome {s t : State} (h : Runs .config s t) :
    (t.err = .none ∧ t.cfgValid = true ∧ configLegal t.act) ∨ (t.err = .config ∧ t.cfgValid = false) := by
  cases h with
  | configured legal => exact .inl ⟨rfl, rfl, legalConfig_iff.mp legal⟩
  | misconfigured => exact .inr ⟨rfl, rfl⟩
  | notConfigured data | badLength data | waits data => cases data

/-- Only CONFIG writes CFG_VALID (R31). -/
theorem Runs.cfgValid_writer {i : Instr} {s t : State} (h : Runs i s t) : t.cfgValid = s.cfgValid ∨ i = .config := by
  cases h with
  | configured | misconfigured => exact .inr rfl
  | _ => exact .inl rfl

/-- GE_STATE is written by GE_TX, and set to Good by a successful CONFIG and CH_RESET (R29, R166). -/
theorem Runs.geState_writer {i : Instr} {s t : State} (h : Runs i s t) :
    t.geState = s.geState ∨
      (t.busy = false ∧ t.err = .none ∧ (i = .geTx ∨ (t.geState = .good ∧ (i = .config ∨ i = .chReset)))) := by
  cases h with
  | configured => exact .inr ⟨rfl, rfl, .inr ⟨rfl, .inl rfl⟩⟩
  | chReset => exact .inr ⟨rfl, rfl, .inr ⟨rfl, .inr rfl⟩⟩
  | geTx => exact .inr ⟨rfl, rfl, .inl rfl⟩
  | _ => exact .inl rfl

/-- Only BCH_DEC without error writes SYND and CORR_POS (R34, R35). -/
theorem Runs.synd_corrPos_writer {i : Instr} {s t : State} (h : Runs i s t) :
    (t.synd = s.synd ∧ t.corrPos = s.corrPos) ∨ (i = .bchDec ∧ t.busy = false ∧ t.err = .none) := by
  cases h with
  | bchDec => exact .inr ⟨rfl, rfl, rfl⟩
  | _ => exact .inl ⟨rfl, rfl⟩

/-- Only a data command without error writes OUT and OUT_LEN (R37, R41). -/
theorem Runs.out_writer {i : Instr} {s t : State} (h : Runs i s t) :
    (t.mem.outBuf = s.mem.outBuf ∧ t.outLen = s.outLen) ∨ (isData i = true ∧ t.busy = false ∧ t.err = .none) := by
  cases h with
  | bchEnc | bchDec | repEnc | repDec | bscTx | geTx => exact .inr ⟨rfl, rfl, rfl⟩
  | _ => exact .inl ⟨rfl, rfl⟩

/-- A command that no longer waits has set DONE (R182, R189). -/
theorem Runs.done_of_idle {i : Instr} {s t : State} (h : Runs i s t) (hs : s.busy = true) (ht : t.busy = false) :
    t.done = true := by
  cases h with
  | waits =>
    have hw : (s.setTaken (s.taken ++ s.port)).busy = false := ht
    simp [hs] at hw
  | _ => rfl

/-- A command other than CONFIG runs alike whatever the configuration registers hold (R48). -/
theorem Runs.set_cfg {i : Instr} {s t : State} (h : Runs i s t) (hi : i ≠ .config) (c : CodeConfig) :
    Runs i { s with cfg := c } { t with cfg := c } := by
  cases h with
  | nop => exact .nop
  | configured | misconfigured => exact absurd rfl hi
  | chReset => exact .chReset
  | move => exact .move
  | notConfigured data invalid => exact .notConfigured data invalid
  | badLength data valid unfit => exact .badLength data valid unfit
  | waits data valid fits few => exact .waits data valid fits few
  | bchEnc valid fits => exact .bchEnc valid fits
  | bchDec valid fits => exact .bchDec valid fits
  | repEnc valid fits => exact .repEnc valid fits
  | repDec valid fits => exact .repDec valid fits
  | bscTx valid fits enough => exact .bscTx valid fits enough
  | geTx valid fits enough => exact .geTx valid fits enough

/-! ### What a step can do -/

theorem SameCommand.trans {s u t : State} (h : SameCommand s u) (h' : SameCommand u t) : SameCommand s t where
  params := h'.params.trans h.params
  inflight := h'.inflight.trans h.inflight
  err := h'.err.trans h.err
  branch := h'.branch.trans h.branch
  short := h'.short.trans h.short
  geState := h'.geState.trans h.geState
  cfgValid := h'.cfgValid.trans h.cfgValid
  synd := h'.synd.trans h.synd
  corrPos := h'.corrPos.trans h.corrPos
  inLen := h'.inLen.trans h.inLen
  outLen := h'.outLen.trans h.outLen
  cfg := h'.cfg.trans h.cfg
  act := h'.act.trans h.act
  mem := h'.mem.trans h.mem
  rstPin := h'.rstPin.trans h.rstPin
  port := h'.port.trans h.port

/-- The registers that only a command and reset write: no host access reaches them (R24, R64, R67). -/
structure SameResults (s t : State) : Prop where
  act      : t.act = s.act
  cfgValid : t.cfgValid = s.cfgValid
  geState  : t.geState = s.geState
  synd     : t.synd = s.synd
  corrPos  : t.corrPos = s.corrPos
  outBuf   : t.mem.outBuf = s.mem.outBuf
  outLen   : t.outLen = s.outLen

theorem SameResults.trans {s u t : State} (h : SameResults s u) (h' : SameResults u t) : SameResults s t where
  act := h'.act.trans h.act
  cfgValid := h'.cfgValid.trans h.cfgValid
  geState := h'.geState.trans h.geState
  synd := h'.synd.trans h.synd
  corrPos := h'.corrPos.trans h.corrPos
  outBuf := h'.outBuf.trans h.outBuf
  outLen := h'.outLen.trans h.outLen

theorem SameCommand.sameResults {s t : State} (h : SameCommand s t) : SameResults s t :=
  ⟨h.act, h.cfgValid, h.geState, h.synd, h.corrPos, congrArg Memory.outBuf h.mem, h.outLen⟩

theorem writeNow_sameResults (s : State) (v : Word) (l : Loc) : SameResults s (writeNow s v l) := by
  cases l <;> constructor <;> rfl

theorem busAccess_sameResults (s : State) (a : BusAccess) : SameResults s (busAccess s a) := by
  unfold busAccess
  split
  · cases a with
    | read b off => simp only [afterRead]; split <;> constructor <;> rfl
    | write b off v =>
      have hw : SameResults s (writeLoc s v (locate s.bufBits off)) := by
        unfold writeLoc
        split
        · constructor <;> rfl
        · exact writeNow_sameResults s v _
      exact hw.trans (by constructor <;> rfl)
  · constructor <;> rfl

theorem keepRead_sameCommand (a : BusAccess) (s : State) : SameCommand s (keepRead a s) := by
  cases a <;> constructor <;> rfl

/-- No host line reaches the registers that only a command and reset write. -/
theorem hostLine_sameResults (s : State) (l : HostLine) (rest : List HostLine) : SameResults s (hostLine s l rest) := by
  cases l with
  | access a =>
    have hh : SameResults s { s with host := rest } := by constructor <;> rfl
    exact (hh.trans (busAccess_sameResults _ a)).trans (keepRead_sameCommand a _).sameResults
  | wait =>
    simp only [hostLine]
    split
    · exact busAccess_sameResults s statusRead
    · exact (busAccess_sameResults s statusRead).trans (by constructor <;> rfl)
  | waitIrq => simp only [hostLine]; split <;> constructor <;> rfl

/-- While a command runs, a host line leaves it and what it reads alone (R240). -/
theorem hostLine_busy {s : State} (hb : s.busy = true) (l : HostLine) (rest : List HostLine) :
    SameCommand s (hostLine s l rest) := by
  cases l with
  | access a =>
    have hh : SameCommand s { s with host := rest } := by constructor <;> rfl
    exact (hh.trans (busAccess_busy (s := { s with host := rest }) hb a)).trans (keepRead_sameCommand a _)
  | wait => simpa only [hostLine, hb, if_true] using busAccess_busy hb statusRead
  | waitIrq => simp only [hostLine]; split <;> constructor <;> rfl

/-- The host's move does nothing when no line is left, else it performs the next line. -/
theorem hostMove_eq_next {s t : State} (h : hostMove s = .next t) :
    t = s ∨ ∃ l rest, s.host = l :: rest ∧ t = hostLine s l rest := by
  unfold hostMove at h
  split at h
  · cases h; exact .inl rfl
  · split at h <;> cases h
    exact .inr ⟨_, _, ‹_›, rfl⟩

theorem hostMove_sameResults {s t : State} (h : hostMove s = .next t) : SameResults s t := by
  obtain rfl | ⟨l, rest, -, rfl⟩ := hostMove_eq_next h
  · constructor <;> rfl
  · exact hostLine_sameResults s l rest

theorem hostMove_busy {s t : State} (h : hostMove s = .next t) (hb : s.busy = true) : SameCommand s t := by
  obtain rfl | ⟨l, rest, -, rfl⟩ := hostMove_eq_next h
  · constructor <;> rfl
  · exact hostLine_busy hb l rest

/-- With a command in flight, the sequencer runs it, or raises ILLEGAL_CMD on a word that spells none (R183, R201). -/
theorem seqMove_eq_next {s t : State} {f : InFlight} (hf : s.inflight = some f) (h : seqMove s = .next t) :
    (∃ i, decode f.word = .instr i ∧ Runs i s t) ∨ (∃ e, decode f.word = .illegal e ∧ t = raise .illegalCmd s) := by
  simp only [seqMove, hf] at h
  split at h
  · exact .inl ⟨_, ‹_›, runs_of_exec h⟩
  · cases h; exact .inr ⟨_, ‹_›, rfl⟩

/-- A sequencer's move that ends the command in flight sets DONE (R182, R189). -/
theorem seqMove_done {s t : State} (h : seqMove s = .next t) (hs : s.busy = true) (ht : t.busy = false) :
    t.done = true := by
  obtain ⟨f, hf⟩ := busy_eq_true.mp hs
  obtain ⟨i, -, hr⟩ | ⟨e, -, rfl⟩ := seqMove_eq_next hf h
  · exact hr.done_of_idle hs ht
  · rfl

/-- What a move other than the assertion of reset can do to the registers of `SameResults`: leave them, or run the command
in flight, in a state `u` that differs from `s` at most by a host access to a running command. -/
inductive MoveEffect (s t : State) : Prop
  | keeps (same : SameResults s t)
  | runs (u : State) (f : InFlight) (i : Instr) (same : SameCommand s u) (inflight : s.inflight = some f)
      (decoded : decode f.word = .instr i) (ran : Runs i u t)

theorem MoveEffect.of_sameCommand {s u t : State} (h : SameCommand s u) (he : MoveEffect u t) : MoveEffect s t := by
  cases he with
  | keeps same => exact .keeps (h.sameResults.trans same)
  | runs v f i same inflight decoded ran => exact .runs v f i (h.trans same) (h.inflight ▸ inflight) decoded ran

theorem seqMove_effect {s t : State} (h : seqMove s = .next t) : MoveEffect s t := by
  cases hf : s.inflight with
  | none =>
    simp only [seqMove, hf] at h
    cases h
    exact .keeps (by constructor <;> rfl)
  | some f =>
    obtain ⟨i, hd, hr⟩ | ⟨e, -, rfl⟩ := seqMove_eq_next hf h
    · exact .runs s f i (by constructor <;> rfl) hf hd hr
    · exact .keeps (by constructor <;> rfl)

/-- In the same-cycle move with a command in flight, the access meets the running command and the sequencer moves after
it (R211). -/
theorem hostWithSeq_busy {s t : State} (hb : s.busy = true) (h : hostWithSeq s = .next t) :
    ∃ u, hostMove s = .next u ∧ seqMove u = .next t := by
  simp only [hostWithSeq, hb, if_true] at h
  split at h
  · exact ⟨_, ‹_›, h⟩
  · cases h
  · cases h

theorem hostWithSeq_effect {s t : State} (h : hostWithSeq s = .next t) : MoveEffect s t := by
  cases hb : s.busy with
  | false =>
    simp only [hostWithSeq, hb, Bool.false_eq_true, if_false] at h
    exact .keeps (hostMove_sameResults h)
  | true =>
    obtain ⟨u, hh, hs⟩ := hostWithSeq_busy hb h
    exact (seqMove_effect hs).of_sameCommand (hostMove_busy hh hb)

theorem agentMove_effect {m : Move} {s t : State} (hm : m ≠ .assertReset) (h : agentMove m s = .next t) :
    MoveEffect s t := by
  cases m with
  | host => exact .keeps (hostMove_sameResults h)
  | seq => exact seqMove_effect h
  | hostWithSeq => exact hostWithSeq_effect h
  | draw u => cases h; exact .keeps (by constructor <;> rfl)
  | assertReset => exact absurd rfl hm
  | releaseReset => cases h; exact .keeps (by constructor <;> rfl)

theorem defaultMove_effect {s t : State} (h : defaultMove s = .next t) : MoveEffect s t := by
  unfold defaultMove at h
  split at h
  · exact seqMove_effect h
  · exact .keeps (hostMove_sameResults h)

/-- One step asserts reset, or has the effect of another move. -/
theorem step_effect {s t : State} (h : step s = .next t) :
    MoveEffect s t ∨ (s.sched.head? = some .assertReset ∧ t = blockReset { s with sched := s.sched.tail }) := by
  cases hs : s.sched with
  | nil =>
    simp only [step, scheduledMove, hs] at h
    exact .inl (defaultMove_effect h)
  | cons m ms =>
    simp only [step, scheduledMove, hs] at h
    by_cases hm : m = .assertReset
    · subst hm; cases h; exact .inr ⟨rfl, rfl⟩
    · have hu : SameCommand s { s with sched := ms } := by constructor <;> rfl
      exact .inl ((agentMove_effect hm h).of_sameCommand hu)

/-! ### STATUS, field by field (R24) -/

theorem statusWord_err (s : State) : s.statusWord.extractLsb' 2 3 = s.err.code := by
  ext i hi
  rw [BitVec.getElem_extractLsb', statusWord_getLsbD]
  interval_cases i <;> rfl

theorem statusWord_branch (s : State) : s.statusWord.extractLsb' 5 2 = s.branch.code := by
  ext i hi
  rw [BitVec.getElem_extractLsb', statusWord_getLsbD]
  interval_cases i <;> rfl

theorem statusWord_reserved (s : State) : s.statusWord.extractLsb' 11 21 = 0 := by
  ext i hi
  rw [BitVec.getElem_extractLsb', statusWord_getLsbD]
  repeat' rw [if_neg (by omega)]
  simp

/-- A write to STATUS clears DONE and OVR where its bits 1 and 10 are set, and does nothing else, busy or not (R24, R26,
R32). -/
theorem busAccess_writeStatus (s : State) (w : Word) :
    busAccess s (.write 32 0x004 w)
      = okWrite { s with done := s.done && !w.getLsbD 1, ovr := s.ovr && !w.getLsbD 10 } := by
  have hloc : locate s.bufBits (0x004 : Offset) = .status := rfl
  rw [busAccess_write w (by decide), hloc]
  simp [writeLoc, Loc.droppedWhileBusy, writeNow, w1c, okWrite]

/-- With BUSY = 0 a read of STATUS returns the status word (R24). -/
theorem busAccess_readStatus_idle {s : State} (hb : s.busy = false) :
    (busAccess s (.read 32 0x004)).resp = some { error := false, data := s.statusWord } := by
  have hloc : locate s.bufBits (0x004 : Offset) = .status := rfl
  rw [busAccess_read (by decide), hloc]
  simp [readValue, readLoc, hb]

/-! ### The statements -/

/-- Settles O49: no constructor of `Runs` but CONFIG's reads the configuration registers. -/
theorem commandsIgnoreConfigRegisters : Obligations.CommandsIgnoreConfigRegisters := by
  intro i s t c hi h
  exact exec_of_runs ((runs_of_exec h).set_cfg hi c)

/-- Settles O54: a step that changes the active configuration is reset or runs CONFIG, the only writer. -/
theorem onlyConfigWritesActive : Obligations.OnlyConfigWritesActive := by
  intro s t h hne
  obtain (⟨same⟩ | ⟨u, f, i, same, hf, hd, hr⟩) | ⟨hs, -⟩ := step_effect h
  · exact absurd same.act hne
  · obtain ha | ⟨rfl, hb, hv, ha⟩ := hr.act_writer
    · exact absurd (ha.trans same.act) hne
    · exact .inl ⟨f, hf, hd, hb, hv, ha.trans same.cfg⟩
  · exact .inr hs

/-- A step that changes CFG_VALID runs CONFIG, with one of its two outcomes, or is reset, which leaves it 0 (R31). -/
theorem step_cfgValid_writer {s t : State} (h : step s = .next t) (hne : t.cfgValid ≠ s.cfgValid) :
    (∃ f, s.inflight = some f ∧ decode f.word = .instr .config ∧
      ((t.err = .none ∧ t.cfgValid = true ∧ configLegal t.act) ∨ (t.err = .config ∧ t.cfgValid = false))) ∨
    (s.sched.head? = some .assertReset ∧ t.cfgValid = false) := by
  obtain (⟨same⟩ | ⟨u, f, i, same, hf, hd, hr⟩) | ⟨hs, rfl⟩ := step_effect h
  · exact absurd same.cfgValid hne
  · obtain hv | rfl := hr.cfgValid_writer
    · exact absurd (hv.trans same.cfgValid) hne
    · exact .inl ⟨f, hf, hd, hr.config_outcome⟩
  · exact .inr ⟨hs, rfl⟩

/-- Settles O55: the two outcomes of CONFIG, and CONFIG and reset as the only writers of CFG_VALID. -/
theorem cfgValidWriters : Obligations.CfgValidWriters := by
  refine ⟨rfl, fun s t h => (runs_of_exec h).config_outcome, fun s t h => ⟨fun hs ht => ?_, fun hs ht => ?_⟩⟩
  · obtain ⟨f, hf, hd, ⟨he, -, hl⟩ | ⟨-, hv⟩⟩ | ⟨-, hv⟩ := step_cfgValid_writer h (by simp [hs, ht])
    · exact ⟨f, hf, hd, he, hl⟩
    · simp [ht] at hv
    · simp [ht] at hv
  · obtain ⟨f, hf, hd, ⟨-, hv, -⟩ | ⟨he, -⟩⟩ | ⟨hr, -⟩ := step_cfgValid_writer h (by simp [hs, ht])
    · simp [ht] at hv
    · exact .inl ⟨f, hf, hd, he⟩
    · exact .inr hr

/-- Settles O56: GE_TX, a successful CONFIG, CH_RESET and reset are the only writers of GE_STATE. -/
theorem geStateWriters : Obligations.GeStateWriters := by
  intro s t h hne
  obtain (⟨same⟩ | ⟨u, f, i, same, hf, hd, hr⟩) | ⟨hs, rfl⟩ := step_effect h
  · exact absurd same.geState hne
  · obtain hg | ⟨hb, he, rfl | ⟨hg, hi⟩⟩ := hr.geState_writer
    · exact absurd (hg.trans same.geState) hne
    · exact .inl ⟨f, hf, hb, he, hd⟩
    · exact .inr (.inl ⟨hg, f, hf, hb, he, by simpa [hd] using hi⟩)
  · exact .inr (.inr ⟨rfl, hs⟩)

/-- Settles O57: without reset, a step that changes a result register runs the command that writes it. -/
theorem resultRegisterWriters : Obligations.ResultRegisterWriters := by
  intro s t h hreset
  obtain (⟨same⟩ | ⟨u, f, i, same, hf, hd, hr⟩) | ⟨hs, -⟩ := step_effect h
  · exact ⟨fun hne => absurd hne (by simp [same.synd, same.corrPos]),
      fun hne => absurd hne (by simp [same.outBuf, same.outLen])⟩
  · constructor
    · intro hne
      obtain ⟨hsy, hcp⟩ | ⟨rfl, hb, he⟩ := hr.synd_corrPos_writer
      · exact absurd hne (by simp [hsy, hcp, same.synd, same.corrPos])
      · exact ⟨f, hf, hd, hb, he⟩
    · intro hne
      obtain ⟨hob, hol⟩ | ⟨hi, hb, he⟩ := hr.out_writer
      · exact absurd hne (by simp [hob, hol, same.mem, same.outLen])
      · exact ⟨f, i, hf, hd, hi, hb, he⟩
  · exact absurd hs hreset

/-- Settles O46: the fields of the status word, read off its bits. -/
theorem statusLayout : Obligations.StatusLayout := by
  refine ⟨busAccess_writeStatus, rfl, fun s hb => ⟨s.statusWord, busAccess_readStatus_idle hb, ?_⟩⟩
  rw [statusWord_err, statusWord_branch, statusWord_reserved]
  refine ⟨(statusWord_getLsbD s 0).trans hb, statusWord_getLsbD s 1, ?_, ?_, statusWord_getLsbD s 7,
    (statusWord_getLsbD s 8).trans ?_, statusWord_getLsbD s 9, statusWord_getLsbD s 10, rfl⟩
  · cases s.err <;> rfl
  · cases s.branch <;> rfl
  · change s.geState.bit = _
    cases s.geState <;> rfl

/-- Settles O47: IRQ from the two bits the bus shows; DONE is 0 while a command is in flight. -/
theorem irqIsDoneAndEnable : Obligations.IrqIsDoneAndEnable := by
  refine ⟨rfl, fun s => ⟨?_, fun hinv hb => ?_⟩⟩
  · have hdone : (readLoc s .status).getLsbD 1 = s.done := by rw [readLoc, statusWord_getLsbD]; rfl
    have hie : (readLoc s .intEn).getLsbD 0 = s.doneIe := by simp [readLoc]
    rw [hdone, hie, State.irq]
  · obtain ⟨hdone, -⟩ := hinv.busy_clear hb
    rw [State.irq, hdone, Bool.false_and]

/-- Settles O48: the write comes first and leaves the command in flight, then the completion sets DONE. -/
theorem completionWinsOverClear : Obligations.CompletionWinsOverClear := by
  intro s t v rest ms hsched _ _ hb h ht
  simp only [step, scheduledMove, hsched] at h
  obtain ⟨u, hh, hs⟩ := hostWithSeq_busy (s := { s with sched := ms }) hb h
  have hu : u.busy = true := (congrArg Option.isSome (hostMove_busy hh hb).inflight).trans hb
  exact seqMove_done hs hu ht

end Sys2Proof.Machine
end

section
/-! What an access to one location does, and the statements on the host bus and on the inputs of a running command
(spec 20_memory.md). -/

namespace Sys2Proof.Machine

open Sys2Proof.Claims

/-! ### Which accesses are legal, and what each kind does (R60, R66) -/

theorem BusAccess.legal_iff {a : BusAccess} : a.legal = true ↔ a.width = 32 ∧ a.off.toNat % 4 = 0 := by
  simp [BusAccess.legal]

/-- An access that is not legal gets ERROR and does nothing else (R66, R208). -/
theorem busAccess_illegal {s : State} {a : BusAccess} (h : a.legal ≠ true) :
    busAccess s a = { s with resp := some { error := true, data := 0 } } := if_neg h

/-- A read moves at most the model's own counter of free values (R69; log entry 10). -/
theorem afterRead_eq (s : State) (l : Loc) : ∃ n, afterRead s l = { s with free := n } := by
  unfold afterRead
  split
  · exact ⟨s.free + 1, rfl⟩
  · exact ⟨s.free, rfl⟩

/-- A read of a location that R242 does not leave free returns its value and does nothing else (R61, R63, R69). -/
theorem busAccess_read_defined {s : State} {off : Offset} {l : Loc} (ha : off.toNat % 4 = 0)
    (hl : locate s.bufBits off = l) (hf : (s.busy && l.freeWhileBusy) = false) :
    busAccess s (.read 32 off) = { s with resp := some { error := false, data := readLoc s l } } := by
  rw [busAccess_read ha, hl]
  simp [afterRead, readValue, hf]

/-- With BUSY = 0 a read returns the value of its location and does nothing else. -/
theorem busAccess_read_idle {s : State} {off : Offset} {l : Loc} (ha : off.toNat % 4 = 0)
    (hl : locate s.bufBits off = l) (hb : s.busy = false) :
    busAccess s (.read 32 off) = { s with resp := some { error := false, data := readLoc s l } } :=
  busAccess_read_defined ha hl (by simp [hb])

/-- A write that R240 does not drop takes effect (R63 to R67). -/
theorem busAccess_write_applied {s : State} {off : Offset} {l : Loc} (v : Word) (ha : off.toNat % 4 = 0)
    (hl : locate s.bufBits off = l) (hd : (s.busy && l.droppedWhileBusy) = false) :
    busAccess s (.write 32 off v) = okWrite (writeNow s v l) := by
  rw [busAccess_write v ha, hl]
  simp [writeLoc, hd, okWrite]

/-- With BUSY = 0 every write takes effect. -/
theorem busAccess_write_idle {s : State} {off : Offset} {l : Loc} (v : Word) (ha : off.toNat % 4 = 0)
    (hl : locate s.bufBits off = l) (hb : s.busy = false) :
    busAccess s (.write 32 off v) = okWrite (writeNow s v l) :=
  busAccess_write_applied v ha hl (by simp [hb])

/-- A write that R240 drops sets OVR and does nothing else (R32, R240). -/
theorem busAccess_write_dropped {s : State} {off : Offset} {l : Loc} (v : Word) (ha : off.toNat % 4 = 0)
    (hl : locate s.bufBits off = l) (hb : s.busy = true) (hd : l.droppedWhileBusy = true) :
    busAccess s (.write 32 off v) = okWrite { s with ovr := true } := by
  rw [busAccess_write v ha, hl]
  simp [writeLoc, hb, hd, okWrite]

/-! ### Offsets (R22, R62) -/

theorem windowOff_aligned {start : Nat} (hs : start % 4 = 0) (w : Nat) : (windowOff start w).toNat % 4 = 0 := by
  simp [windowOff]; omega

/-- A reserved offset selects no register and no word of a window (R62). -/
theorem locate_reserved {bufBits : Nat} {off : Offset} (h : reservedOff bufBits off) :
    locate bufBits off = .reserved := by
  obtain ⟨-, hoff⟩ := h
  have hin : windowWord bufBits inWindow off.toNat = none := windowWord_none (by simp only [inWindow]; omega)
  have hout : windowWord bufBits outWindow off.toNat = none := windowWord_none (by simp only [outWindow]; omega)
  unfold locate
  split <;> try omega
  simp only [hin, hout]

/-! ### The fields of the RW registers (R22, R63) -/

/-- Writing a field of the low `n` bits and reading it back keeps exactly those bits. -/
theorem setWidth_setWidth_eq_and {n : Nat} (hn : n ≤ 32) (v : Word) :
    (v.setWidth n).setWidth 32 = v &&& BitVec.ofNat 32 (2 ^ n - 1) := by
  have hle : 2 ^ n ≤ 2 ^ 32 := Nat.pow_le_pow_right (by decide) hn
  have hpos : 0 < 2 ^ n := Nat.two_pow_pos n
  have hmod : v.toNat % 2 ^ n < 2 ^ n := Nat.mod_lt _ hpos
  apply BitVec.eq_of_toNat_eq
  rw [BitVec.toNat_setWidth, BitVec.toNat_setWidth, Nat.mod_eq_of_lt (hmod.trans_le hle), BitVec.toNat_and,
    BitVec.toNat_ofNat, Nat.mod_eq_of_lt (a := 2 ^ n - 1) (by omega), Nat.and_two_pow_sub_one_eq_mod]

theorem ofBool_getLsbD_zero (v : Word) : BitVec.ofBool (v.getLsbD 0) = v.setWidth 1 := by
  ext i hi
  obtain rfl : i = 0 := by omega
  simp

/-- The mask of the field of an RW register other than STATUS (R22). -/
def Loc.rwMask : Loc → Option Word
  | .intEn => some 0x1
  | .inLen | .cfgRep => some 0xFFFF
  | .cfgN | .cfgK => some 0x1FF
  | .pBsc | .pGood | .pBad | .pG2b | .pB2g => some 0x1FFFF
  | .cmd | .status | .synd | .corrPos | .outLen | .inWord _ | .outWord _ | .reserved => none

/-- An RW register reads back the written bits of its field (R63). -/
theorem readLoc_writeNow_of_rwMask {l : Loc} {m : Word} (h : l.rwMask = some m) (s : State) (v : Word) :
    readLoc (writeNow s v l) l = v &&& m := by
  cases l with
  | intEn =>
    cases h
    simp only [readLoc, writeNow, ofBool_getLsbD_zero]
    exact setWidth_setWidth_eq_and (by decide) v
  | inLen | cfgN | cfgK | cfgRep | pBsc | pGood | pBad | pG2b | pB2g =>
    cases h
    exact setWidth_setWidth_eq_and (by decide) v
  | cmd | status | synd | corrPos | outLen | inWord | outWord | reserved => cases h

/-- A write to an RW register starts no command. -/
theorem writeNow_busy_of_rwMask {l : Loc} {m : Word} (h : l.rwMask = some m) (s : State) (v : Word) :
    (writeNow s v l).busy = s.busy := by
  cases l with
  | cmd => cases h
  | _ => rfl

theorem writeNow_bufBits (s : State) (v : Word) (l : Loc) : (writeNow s v l).bufBits = s.bufBits := by
  cases l <;> rfl

/-- The response to a write is no part of what a location reads. -/
theorem readLoc_okWrite (s : State) (l : Loc) : readLoc (okWrite s) l = readLoc s l := by
  cases l <;> rfl

/-- Of the RW registers only INT_EN takes a write while BUSY = 1 (R240). -/
theorem droppedWhileBusy_of_rwMask {l : Loc} {m : Word} (h : l.rwMask = some m) (hl : l ≠ .intEn) :
    l.droppedWhileBusy = true := by
  cases l with
  | intEn => exact absurd rfl hl
  | status | synd | corrPos | outLen | outWord | reserved => cases h
  | _ => rfl

/-- The rows of the table `rwRegisters` are RW registers with their masks (R22). -/
theorem rwRegisters_locate {r : Offset × Word} (hr : r ∈ rwRegisters) (bufBits : Nat) :
    r.1.toNat % 4 = 0 ∧ (locate bufBits r.1).rwMask = some r.2 ∧ (locate bufBits r.1 = .intEn → r.1 = 0x008) := by
  fin_cases hr
  · exact ⟨rfl, rfl, fun _ => rfl⟩
  all_goals exact ⟨rfl, rfl, fun h => by cases h⟩

/-! ### The inputs of a running command (R71) -/

/-- A move keeps the configuration registers, and keeps IN and IN_LEN unless it completes a MOVE (R71). -/
def KeepsInputs (s t : State) : Prop :=
  t.cfg = s.cfg ∧ ((t.mem.inBuf = s.mem.inBuf ∧ t.inLen = s.inLen) ∨
    ∃ f, s.inflight = some f ∧ decode f.word = .instr .move ∧ t.busy = false)

theorem SameCommand.keepsInputs {s t : State} (h : SameCommand s t) : KeepsInputs s t :=
  ⟨h.cfg, .inl ⟨congrArg Memory.inBuf h.mem, h.inLen⟩⟩

theorem KeepsInputs.of_sameCommand {s u t : State} (h : SameCommand s u) (hk : KeepsInputs u t) : KeepsInputs s t := by
  simpa only [KeepsInputs, h.cfg, h.mem, h.inLen, h.inflight] using hk

/-- MOVE is the only command that writes IN and IN_LEN, and it completes at once (R40, R188). -/
theorem Runs.inputs_writer {i : Instr} {s t : State} (h : Runs i s t) :
    (t.mem.inBuf = s.mem.inBuf ∧ t.inLen = s.inLen) ∨ (i = .move ∧ t.busy = false) := by
  cases h with
  | move => exact .inr ⟨rfl, rfl⟩
  | _ => exact .inl ⟨rfl, rfl⟩

theorem seqMove_keepsInputs {s t : State} (hb : s.busy = true) (h : seqMove s = .next t) : KeepsInputs s t := by
  have hcfg : t.cfg = s.cfg := by
    obtain ⟨u, hu, same⟩ := seqMove_next s
    cases hu.symm.trans h
    exact same.cfg
  obtain ⟨f, hf⟩ := busy_eq_true.mp hb
  obtain ⟨i, hd, hr⟩ | ⟨e, -, rfl⟩ := seqMove_eq_next hf h
  · obtain hin | ⟨rfl, ht⟩ := hr.inputs_writer
    · exact ⟨hcfg, .inl hin⟩
    · exact ⟨hcfg, .inr ⟨f, hf, hd, ht⟩⟩
  · exact ⟨hcfg, .inl ⟨rfl, rfl⟩⟩

theorem agentMove_keepsInputs {m : Move} {s t : State} (hb : s.busy = true) (hm : m ≠ .assertReset)
    (h : agentMove m s = .next t) : KeepsInputs s t := by
  cases m with
  | host => exact (hostMove_busy h hb).keepsInputs
  | seq => exact seqMove_keepsInputs hb h
  | hostWithSeq =>
    obtain ⟨u, hh, hs⟩ := hostWithSeq_busy hb h
    have same := hostMove_busy hh hb
    have hu : u.busy = true := (congrArg Option.isSome same.inflight).trans hb
    exact (seqMove_keepsInputs hu hs).of_sameCommand same
  | draw u => cases h; exact ⟨rfl, .inl ⟨rfl, rfl⟩⟩
  | assertReset => exact absurd rfl hm
  | releaseReset => cases h; exact ⟨rfl, .inl ⟨rfl, rfl⟩⟩

/-- Apart from reset, a step from a state with BUSY = 1 keeps the inputs of the running command. -/
theorem step_keepsInputs {s t : State} (hb : s.busy = true) (hr : s.sched.head? ≠ some .assertReset)
    (h : step s = .next t) : KeepsInputs s t := by
  cases hs : s.sched with
  | nil =>
    simp only [step, scheduledMove, hs, defaultMove, hb, if_true] at h
    exact seqMove_keepsInputs hb h
  | cons m ms =>
    simp only [step, scheduledMove, hs] at h
    have hm : m ≠ .assertReset := fun hm => hr (by simp [hs, hm])
    have hu : SameCommand s { s with sched := ms } := by constructor <;> rfl
    exact (agentMove_keepsInputs (s := { s with sched := ms }) hb hm h).of_sameCommand hu

/-! ### The statements -/

/-- Settles O41: the writes to STATUS and CMD, and the stored word of the IN buffer bit by bit. -/
theorem statusCmdAndInWindowWrites : Obligations.StatusCmdAndInWindowWrites := by
  intro s v hinv
  obtain ⟨hmul, -, hle⟩ := params_bounds hinv.params_wf
  obtain ⟨hlen, -⟩ : s.mem.inBuf.length = s.params.bufBits ∧ _ := memory_wf_iff.mp hinv.mem_wf
  refine ⟨busAccess_writeStatus s v, fun hb => ?_, fun w hw hb => ?_⟩
  · rw [busAccess_write_idle v (l := .cmd) rfl rfl hb]
    rfl
  · have hfit : 32 * w + 32 ≤ s.mem.inBuf.length := by omega
    refine ⟨setWord s.mem.inBuf w v, busAccess_write_idle v (windowOff_aligned rfl w) (locate_in hle hw) hb,
      (setWord_length v hfit).trans hlen, fun b hb => ?_, fun j hj => ?_⟩
    · rw [setWord_getD v hfit, if_pos (by omega), Nat.add_sub_cancel_left]
    · rw [setWord_getD v hfit, if_neg (by omega)]

/-- Settles O42: an idle read of a window word returns the word of its buffer, whose bits `getLsbD_getWord` gives. -/
theorem windowBitOrder : Obligations.WindowBitOrder := by
  intro s w hp hb hw
  obtain ⟨-, -, hle⟩ := params_bounds hp
  refine ⟨⟨getWord s.mem.inBuf w, ?_, getLsbD_getWord s.mem.inBuf w⟩,
    ⟨getWord s.mem.outBuf w, ?_, getLsbD_getWord s.mem.outBuf w⟩⟩
  · rw [busAccess_read_idle (windowOff_aligned rfl w) (locate_in hle hw) hb]
    rfl
  · rw [busAccess_read_idle (windowOff_aligned rfl w) (locate_out hle hw) hb]
    rfl

/-- Settles O58: `KeepsInputs` of every step but reset. -/
theorem inputsStableWhileBusy : Obligations.InputsStableWhileBusy := by
  intro s t h hb hr
  obtain ⟨hcfg, ⟨hin, hlen⟩ | hmove⟩ := step_keepsInputs hb hr h
  · exact ⟨fun hne => absurd hne (by simp [hin, hlen]), hcfg⟩
  · exact ⟨fun _ => hmove, hcfg⟩

/-- Settles O37: the legal accesses, read and write, and the others. -/
theorem illegalAccessGetsError : Obligations.IllegalAccessGetsError := by
  intro s a
  constructor
  · intro h
    refine busAccess_illegal fun hl => ?_
    obtain ⟨hw, ho⟩ := BusAccess.legal_iff.mp hl
    exact h.elim (absurd hw) (absurd ho)
  · intro hw ho
    cases a with
    | read bits off => cases hw; exact ⟨_, congrArg State.resp (busAccess_read (off := off) ho)⟩
    | write bits off v => cases hw; exact ⟨_, congrArg State.resp (busAccess_write (off := off) v ho)⟩

/-- Settles O38: a reserved offset selects the location `.reserved`, which reads 0 and has no write. -/
theorem reservedLocationsReadZeroIgnoreWrites : Obligations.ReservedLocationsReadZeroIgnoreWrites := by
  intro s off v _ h
  have hl : locate s.bufBits off = .reserved := locate_reserved h
  obtain ⟨ha, -⟩ := h
  exact ⟨busAccess_read_defined ha hl (Bool.and_false _), busAccess_write_applied v ha hl (Bool.and_false _)⟩

/-- Settles O39: the idle writes one by one; read-back and dropped writes from the table of the RW registers. -/
theorem rwRegistersKeepTheirFields : Obligations.RwRegistersKeepTheirFields := by
  refine ⟨fun s v hb => ?_, fun s v r hr => ⟨fun hb => ?_, fun hb hne => ?_, fun hb => ?_⟩⟩
  · simp only [← BitVec.setWidth_eq_extractLsb' (by decide : 9 ≤ 32),
      ← BitVec.setWidth_eq_extractLsb' (by decide : 16 ≤ 32), ← BitVec.setWidth_eq_extractLsb' (by decide : 17 ≤ 32)]
    and_intros <;> exact busAccess_write_idle v rfl rfl hb
  · obtain ⟨ha, hm, -⟩ := rwRegisters_locate hr s.bufBits
    have hloc : locate (okWrite (writeNow s v (locate s.bufBits r.1))).bufBits r.1 = locate s.bufBits r.1 :=
      congrArg (locate · r.1) (writeNow_bufBits s v _)
    rw [busAccess_write_idle v ha rfl hb, busAccess_read_idle ha hloc ((writeNow_busy_of_rwMask hm s v).trans hb),
      readLoc_okWrite, readLoc_writeNow_of_rwMask hm]
  · obtain ⟨ha, hm, hie⟩ := rwRegisters_locate hr s.bufBits
    exact busAccess_write_dropped v ha rfl hb (droppedWhileBusy_of_rwMask hm (mt hie hne))
  · rw [busAccess_read_idle (l := .synd) rfl rfl hb, busAccess_read_idle (l := .corrPos) rfl rfl hb,
      busAccess_read_idle (l := .outLen) rfl rfl hb]
    simp only [readLoc, BitVec.setWidth_eq_append, Nat.reduceLeDiff]
    exact ⟨rfl, rfl, rfl⟩

/-- Settles O40: these locations have no write, busy or not, and CMD reads 0. -/
theorem readOnlyLocationsIgnoreWrites : Obligations.ReadOnlyLocationsIgnoreWrites := by
  intro s v hp
  obtain ⟨-, -, hle⟩ := params_bounds hp
  exact ⟨busAccess_write_applied v (l := .synd) rfl rfl (Bool.and_false _),
    busAccess_write_applied v (l := .corrPos) rfl rfl (Bool.and_false _),
    busAccess_write_applied v (l := .outLen) rfl rfl (Bool.and_false _),
    fun w hw => busAccess_write_applied v (windowOff_aligned rfl w) (locate_out hle hw) (Bool.and_false _),
    busAccess_read_defined (l := .cmd) rfl rfl (Bool.and_false _)⟩

/-- Settles O44: a legal read moves at most the counter, an illegal one is answered with ERROR. -/
theorem readsHaveNoSideEffect : Obligations.ReadsHaveNoSideEffect := by
  intro s bits off
  by_cases hl : (BusAccess.read bits off).legal = true
  · obtain ⟨hw, ha⟩ := BusAccess.legal_iff.mp hl
    cases hw
    obtain ⟨n, hn⟩ := afterRead_eq s (locate s.bufBits off)
    exact ⟨_, n, by rw [busAccess_read (off := off) ha, hn]⟩
  · exact ⟨_, s.free, busAccess_illegal hl⟩

end Sys2Proof.Machine
end

section
/-! The command word and its two fields, the opcode map both ways, and the statements on decoding (spec 30_encoding.md). -/

namespace Sys2Proof

/-! ### A word is its fields RSV and OPC (R90) -/

theorem rsvField_append (rsv : BitVec 28) (opc : BitVec 4) : rsvField (rsv ++ opc) = rsv :=
  BitVec.extractLsb'_append_eq_left

theorem opcField_append (rsv : BitVec 28) (opc : BitVec 4) : opcField (rsv ++ opc) = opc :=
  BitVec.extractLsb'_append_eq_right

theorem rsvField_append_opcField (w : Word) : rsvField w ++ opcField w = w :=
  (BitVec.extractLsb'_append_extractLsb'_eq_extractLsb' rfl).trans BitVec.extractLsb'_eq_self

theorem rsvField_encode (i : Instr) : rsvField (encode i) = 0 := rsvField_append 0#28 (opcode i)

theorem opcField_encode (i : Instr) : opcField (encode i) = opcode i := opcField_append 0#28 (opcode i)

/-! ### The opcode map and its inverse (R93) -/

theorem opcode_le_nine (i : Instr) : (opcode i).toNat ≤ 9 := by
  cases i <;> decide

/-- An OPC is a command's own, or above 9 and reserved. -/
theorem decodeOpc_cases (n : Nat) :
    (∃ i, decodeOpc n = .instr i ∧ (opcode i).toNat = n) ∨ (decodeOpc n = .illegal .reservedOpcode ∧ 9 < n) := by
  unfold decodeOpc
  split
  case h_11 => exact .inr ⟨rfl, by grind⟩
  all_goals exact .inl ⟨_, rfl, rfl⟩

theorem decodeOpc_reserved {n : Nat} (h : 9 < n) : decodeOpc n = .illegal .reservedOpcode := by
  obtain ⟨i, -, rfl⟩ | ⟨hd, -⟩ := decodeOpc_cases n
  · exact absurd (opcode_le_nine i) (by omega)
  · exact hd

/-! ### Decoding a word (R92, R94) -/

theorem decode_of_rsvField_eq_zero {w : Word} (h : rsvField w = 0) : decode w = decodeOpc (opcField w).toNat := if_pos h

theorem decode_of_rsvField_ne_zero {w : Word} (h : rsvField w ≠ 0) : decode w = .illegal .reservedBits := if_neg h

/-- With RSV = 0, a word is the encoding of the command whose OPC it holds. -/
theorem eq_encode_of_fields {w : Word} {i : Instr} (hr : rsvField w = 0) (ho : opcode i = opcField w) : w = encode i := by
  rw [← rsvField_append_opcField w, hr, ← ho]
  rfl

/-- A word is a command's own, or illegal with RSV not 0 or OPC above 9. -/
theorem decode_cases (w : Word) :
    (∃ i, decode w = .instr i ∧ w = encode i) ∨
    (∃ e, decode w = .illegal e ∧ ¬ (rsvField w = 0 ∧ (opcField w).toNat ≤ 9)) := by
  by_cases hr : rsvField w = 0
  · rw [decode_of_rsvField_eq_zero hr]
    obtain ⟨i, hd, ho⟩ | ⟨hd, hgt⟩ := decodeOpc_cases (opcField w).toNat
    · exact .inl ⟨i, hd, eq_encode_of_fields hr (BitVec.eq_of_toNat_eq ho)⟩
    · exact .inr ⟨_, hd, fun ⟨_, hle⟩ => absurd hle (Nat.not_le.mpr hgt)⟩
  · exact .inr ⟨_, decode_of_rsvField_ne_zero hr, fun ⟨h, _⟩ => hr h⟩

theorem encode_spells (i : Instr) : rsvField (encode i) = 0 ∧ (opcField (encode i)).toNat ≤ 9 :=
  ⟨rsvField_encode i, (opcField_encode i).symm ▸ opcode_le_nine i⟩

/-! ### The statements on decoding -/

/-- Settles O1: the ten words of the table evaluated, and every OPC above 9 reserved. -/
theorem opcodeMapWordsDecode : Obligations.OpcodeMapWordsDecode := by
  refine ⟨rfl, rfl, rfl, rfl, rfl, rfl, rfl, rfl, rfl, rfl, fun opc h => ?_⟩
  rw [decode_of_rsvField_eq_zero (rsvField_append 0#28 opc), opcField_append]
  exact decodeOpc_reserved h

/-- Settles O3, by the two cases of `decode_cases`: a command's own word, and an illegal word. -/
theorem decodeTotalAndUnambiguous : Obligations.DecodeTotalAndUnambiguous := by
  intro w
  obtain ⟨i, hd, rfl⟩ | ⟨e, hd, hns⟩ := decode_cases w
  · have hs := encode_spells i
    refine ⟨iff_of_true ⟨i, hd⟩ hs, iff_of_false ?_ (not_not_intro hs), ?_⟩ <;> simp [hd]
  · refine ⟨iff_of_false ?_ hns, iff_of_true ⟨e, hd⟩ hns, ?_⟩ <;> simp [hd]

end Sys2Proof
end

section
/-! The replication, the groups and the majority vote bit by bit, and the statements on the repetition commands and on what a
data command reads of IN (spec 40_repetition.md; 10_state.md R36). -/

namespace Sys2Proof.Machine

open Sys2Proof.Claims

/-! ### Data commands: the errors, the result, the input sequence (R36, R202, R203) -/

theorem exec_data_notConfigured {i : Instr} {s : State} (hi : isData i = true) (hv : s.cfgValid = false) :
    exec i s = .next (endsWith .notConfigured s) := exec_of_runs (.notConfigured hi hv)

theorem exec_data_badLength {i : Instr} {s : State} (hi : isData i = true) (hv : s.cfgValid = true)
    (hf : lengthFits i s = false) : exec i s = .next (endsWith .length s) := exec_of_runs (.badLength hi hv hf)

/-- Inside the input sequence `IN[j]` is bit `j` of the sequence (R36). -/
theorem input_getD {s : State} {j : Nat} (h : j < s.len) : s.input.getD j false = inBit s j := by
  simp [State.input, h]

theorem padTo_length_of_le {size : Nat} {xs : Bits} (h : xs.length ≤ size) : (padTo size xs).length = size := by
  rw [padTo_length, max_eq_left h]

theorem padTo_getD_of_lt {size j : Nat} {xs : Bits} (h : j < xs.length) :
    (padTo size xs).getD j false = xs.getD j false := by
  rw [padTo_getD, if_pos h]

theorem padTo_getD_of_le {size j : Nat} {xs : Bits} (h : xs.length ≤ j) : (padTo size xs).getD j false = false := by
  rw [padTo_getD, if_neg (Nat.not_lt.mpr h)]

/-- A configured block has r ≥ 1 (R184). -/
theorem Invariant.one_le_r {s : State} (h : Invariant s) (hv : s.cfgValid = true) : 1 ≤ s.r := by
  obtain ⟨-, -, -, -, hr⟩ := legalConfig_bounds (h.cfg_legal hv)
  exact hr

/-! ### Replication (R110) -/

theorem replicateBits_cons (r : Nat) (b : Bool) (m : Bits) :
    replicateBits r (b :: m) = List.replicate r b ++ replicateBits r m := by
  simp [replicateBits]

/-- Dropping `i` groups of copies drops the first `i` bits of the message. -/
theorem drop_replicateBits (r : Nat) (m : Bits) (i : Nat) :
    (replicateBits r m).drop (i * r) = replicateBits r (m.drop i) := by
  induction m generalizing i with
  | nil => simp [replicateBits]
  | cons b m ih =>
    cases i with
    | zero => simp
    | succ i =>
      have hlen : (i + 1) * r = (List.replicate r b).length + i * r := by
        rw [List.length_replicate, Nat.succ_mul, Nat.add_comm]
      rw [replicateBits_cons, hlen, List.drop_length_add_append, ih, List.drop_succ_cons]

/-- Copy `t` of bit `i` stands at index `i·r + t` (R111). -/
theorem replicateBits_getD {r t : Nat} (ht : t < r) (m : Bits) (i : Nat) :
    (replicateBits r m).getD (i * r + t) false = m.getD i false := by
  have hdrop : (replicateBits r m).getD (i * r + t) false = (replicateBits r (m.drop i)).getD t false := by
    rw [← drop_replicateBits]; simp
  rw [hdrop]
  by_cases hi : i < m.length
  · rw [List.drop_eq_getElem_cons hi, replicateBits_cons]
    simp [List.getElem?_append, ht, hi]
  · rw [List.drop_eq_nil_of_le (by omega)]
    simp [replicateBits, Nat.le_of_not_lt hi]

/-! ### Groups and the majority vote (R112, R113) -/

theorem ceilDiv_mul {r : Nat} (hr : 1 ≤ r) (a : Nat) : ceilDiv (a * r) r = a := by
  obtain ⟨hge, hleast⟩ := ceilDiv_spec hr (a * r)
  exact le_antisymm (hleast a le_rfl) (Nat.le_of_mul_le_mul_right hge hr)

/-- There are at most as many groups as bits. -/
theorem ceilDiv_le_self {r : Nat} (hr : 1 ≤ r) (a : Nat) : ceilDiv a r ≤ a :=
  (ceilDiv_spec hr a).2 a (Nat.le_mul_of_pos_right a hr)

/-- A group is made of the bits of its range of indices, cut at the end of the sequence. -/
theorem take_drop_eq_map_range' (y : Bits) (a n : Nat) :
    (y.drop a).take n = (List.range' a (min n (y.length - a))).map (y.getD · false) := by
  apply List.ext_getElem
  · simp
  · intro i hi _
    have hlt : a + i < y.length := by simp at hi; omega
    simp [hlt]

theorem groups_map_getD {r g : Nat} {y : Bits} (hg : g < ceilDiv y.length r) (f : Bits → Bool) :
    ((groups r y).map f).getD g false = f ((y.drop (g * r)).take r) := by
  simp [groups, hg]

/-- The ones of a group, counted over its own indices. -/
theorem count_group (y : Bits) (a n : Nat) :
    ((y.drop a).take n).count true
      = ((Finset.Ico a (min (a + n) y.length)).filter fun b => y.getD b false = true).card := by
  have hsize : min n (y.length - a) = min (a + n) y.length - a := by omega
  rw [take_drop_eq_map_range', hsize, List.count_eq_countP, List.countP_map, List.countP_eq_length_filter]
  rfl

/-- The vote of a group, by the ones among its own indices (R113). -/
theorem majority_group (y : Bits) (a n : Nat) :
    majority ((y.drop a).take n)
      = decide (min (a + n) y.length - a
          < 2 * ((Finset.Ico a (min (a + n) y.length)).filter fun b => y.getD b false = true).card) := by
  have hsize : ((y.drop a).take n).length = min (a + n) y.length - a := by
    rw [List.length_take, List.length_drop]; omega
  rw [majority, hsize, count_group]

/-- The vote of three bits is 1 exactly when at least two of them are 1 (R116). -/
theorem majority_three : ∀ a b c : Bool, majority [a, b, c] = ((a && b) || (a && c) || (b && c)) := by decide

/-- A group with few enough bits other than `b` decodes to `b`; a tie decodes to 0 (R113, R117). -/
theorem majority_eq {q : Bits} {b : Bool} (h1 : b = true → 2 * q.count (!b) < q.length)
    (h0 : b = false → 2 * q.count (!b) ≤ q.length) : majority q = b := by
  have hsum := List.count_true_add_count_false q
  cases b with
  | true => simp [majority] at h1 ⊢; omega
  | false => simpa [majority] using h0

theorem majority_replicate {r : Nat} (hr : 1 ≤ r) (b : Bool) : majority (List.replicate r b) = b := by
  refine majority_eq (fun hb => ?_) (fun hb => ?_)
  · simpa [hb, List.count_replicate] using Nat.lt_of_succ_le hr
  · simp [hb, List.count_replicate]

/-- Group `g` of a replicated message holds the `r` copies of bit `g`. -/
theorem groups_replicateBits {r : Nat} (hr : 1 ≤ r) (m : Bits) :
    groups r (replicateBits r m) = m.map (List.replicate r) := by
  apply List.ext_getElem
  · simp [groups_length, replicateBits_length, ceilDiv_mul hr]
  · intro g hg hm
    rw [List.length_map] at hm
    have hdrop : m.drop g = m[g] :: m.drop (g + 1) := List.drop_eq_getElem_cons hm
    simp only [groups, List.getElem_map, List.getElem_range, drop_replicateBits, hdrop, replicateBits_cons]
    exact List.take_left' List.length_replicate

/-- Decoding a replicated message gives the message back (R117). -/
theorem map_majority_groups_replicateBits {r : Nat} (hr : 1 ≤ r) (m : Bits) :
    (groups r (replicateBits r m)).map majority = m := by
  rw [groups_replicateBits hr, List.map_map]
  simp [Function.comp_def, majority_replicate hr]

/-! ### The two commands past their checks (R111, R115) -/

theorem lengthFits_repEnc_eq_false {s : State} :
    lengthFits .repEnc s = false ↔ s.bufBits < s.len ∨ s.bufBits < s.len * s.r := by
  simp [lengthFits, imp_iff_not_or]

theorem exec_repEnc_fits {s : State} (hv : s.cfgValid = true) (hl : s.len ≤ s.bufBits) (hr : s.len * s.r ≤ s.bufBits) :
    exec .repEnc s = .next (complete (writeOut (replicateBits s.r s.input) s)) :=
  exec_of_runs (.repEnc hv (by simp [lengthFits, hl, hr]))

theorem exec_repDec_fits {s : State} (hv : s.cfgValid = true) (hl : s.len ≤ s.bufBits) :
    exec .repDec s = .next (complete
      { writeOut ((groups s.r s.input).map majority) s with short := shortFlag s.len s.r }) :=
  exec_of_runs (.repDec hv (by simp [lengthFits, hl]))

/-- On a replicated sequence REP_DEC gives the sequence, with no short group (R117). -/
theorem exec_repDec_replicated {s : State} {m : Bits} (hv : s.cfgValid = true) (hr : 1 ≤ s.r)
    (hm : s.mem.inBuf = padTo s.bufBits (replicateBits s.r m)) (hlen : s.len = m.length * s.r)
    (hfit : m.length * s.r ≤ s.bufBits) :
    exec .repDec s = .next (complete { writeOut m s with short := false }) := by
  have hin : s.input = replicateBits s.r m := by
    rw [State.input, hm, hlen, ← replicateBits_length]
    exact List.take_left' rfl
  have hshort : shortFlag s.len s.r = false := by simp [shortFlag, hlen]
  rw [exec_repDec_fits hv (hlen ▸ hfit), hin, map_majority_groups_replicateBits hr, hshort]

/-! ### The IN buffer beyond the input sequence (R36) -/

/-- The state with the contents `buf` in the IN buffer. -/
def State.setIn (s : State) (buf : Bits) : State := { s with mem := { s.mem with inBuf := buf } }

/-- A data command runs alike whatever IN holds beyond the input sequence. -/
theorem Runs.setIn {i : Instr} {s t : State} (h : Runs i s t) (hi : isData i = true) {buf : Bits}
    (hin : (s.setIn buf).input = s.input) : Runs i (s.setIn buf) (t.setIn buf) := by
  cases h with
  | nop | configured | misconfigured | chReset | move => cases hi
  | notConfigured data invalid => exact .notConfigured data invalid
  | badLength data valid unfit => exact .badLength data valid unfit
  | waits data valid fits few => exact .waits data valid fits few
  | bchEnc valid fits => rw [← hin]; exact .bchEnc valid fits
  | bchDec valid fits => rw [← hin]; exact .bchDec valid fits
  | repEnc valid fits => rw [← hin]; exact .repEnc valid fits
  | repDec valid fits => rw [← hin]; exact .repDec valid fits
  | bscTx valid fits enough => rw [← hin]; exact .bscTx valid fits enough
  | geTx valid fits enough => rw [← hin]; exact .geTx valid fits enough

/-! ### The statements -/

/-- Settles O50: every constructor of `Runs` for a data command reads IN through the input sequence alone. -/
theorem inputsBeyondLengthNotRead : Obligations.InputsBeyondLengthNotRead := by
  intro i s t buf hi hbuf h
  exact exec_of_runs ((runs_of_exec h).setIn hi hbuf)

/-- Settles O28: the two errors, and the replicated input bit by bit. -/
theorem repEncResult : Obligations.RepEncResult := by
  intro s hinv
  refine ⟨exec_data_notConfigured rfl, fun hv hlong => ?_, fun hv hl hr => ?_⟩
  · exact exec_data_badLength rfl hv (lengthFits_repEnc_eq_false.mpr hlong)
  · have hlen : (replicateBits s.r s.input).length = s.len * s.r := by
      rw [replicateBits_length, input_length hinv.mem_wf hl]
    refine ⟨padTo s.bufBits (replicateBits s.r s.input), hlen ▸ exec_repEnc_fits hv hl hr,
      padTo_length_of_le (hlen ▸ hr), fun i t hi ht => ?_, fun j hj => padTo_getD_of_le (hlen ▸ hj)⟩
    have hlt : i * s.r + t < s.len * s.r :=
      calc i * s.r + t < (i + 1) * s.r := by rw [Nat.succ_mul]; exact Nat.add_lt_add_left ht _
        _ ≤ s.len * s.r := Nat.mul_le_mul_right _ hi
    exact (padTo_getD_of_lt (hlen ▸ hlt)).trans ((replicateBits_getD ht _ i).trans (input_getD hi))

/-- Settles O29: the two errors, the least number of groups, and each vote as a count over the group's own indices. -/
theorem repDecResult : Obligations.RepDecResult := by
  intro s hinv
  refine ⟨exec_data_notConfigured rfl, fun hv hlong => ?_, fun hv hl => ?_⟩
  · exact exec_data_badLength rfl hv (decide_eq_false (Nat.not_le.mpr hlong))
  · have hr := hinv.one_le_r hv
    have hin : s.input.length = s.len := input_length hinv.mem_wf hl
    have hlen : ((groups s.r s.input).map majority).length = ceilDiv s.len s.r := by
      rw [List.length_map, groups_length, hin]
    have hle : ceilDiv s.len s.r ≤ s.len := ceilDiv_le_self hr s.len
    obtain ⟨hge, hleast⟩ := ceilDiv_spec hr s.len
    refine ⟨padTo s.bufBits ((groups s.r s.input).map majority), ceilDiv s.len s.r, hlen ▸ exec_repDec_fits hv hl,
      padTo_length_of_le (hlen ▸ hle.trans hl), hge, hleast, hle, fun j hj => ?_,
      fun j hj => padTo_getD_of_le (hlen ▸ hj)⟩
    rw [padTo_getD_of_lt (hlen ▸ hj), groups_map_getD (hin ▸ hj), majority_group, hin, ← Nat.succ_mul]
    have hbits : ∀ b ∈ Finset.Ico (j * s.r) (min ((j + 1) * s.r) s.len),
        (s.input.getD b false = true ↔ inBit s b = true) := fun b hb => by
      rw [input_getD ((Finset.mem_Ico.mp hb).2.trans_le (min_le_right _ _))]
    rw [Finset.filter_congr hbits]
    rfl

/-- Settles O30: with r = 3 and L a multiple of 3 every group is three bits, and the vote is `majority_three`. -/
theorem majorityOfThree : Obligations.MajorityOfThree := by
  intro s hinv hv hr3 hl (hmul : s.len % 3 = 0)
  have hr : s.r = 3 := congrArg BitVec.toNat hr3
  have hin : s.input.length = s.len := input_length hinv.mem_wf hl
  have hthird : ceilDiv s.input.length s.r = s.len / 3 := by
    rw [hin, hr, ceilDiv]; omega
  have hlen : ((groups s.r s.input).map majority).length = s.len / 3 := by rw [List.length_map, groups_length, hthird]
  refine ⟨_, exec_repDec_fits hv hl, ?_, ?_, fun g (hg : g < s.len / 3) => ?_⟩
  · rw [complete_outLen, writeOut_outLen, hlen, BitVec.toNat_ofNat]
    exact Nat.mod_eq_of_lt ((Nat.div_le_self _ _).trans_lt s.inLen.isLt)
  · simp [shortFlag, hr, hmul]
  · have hthree : min 3 (s.input.length - 3 * g) = 3 := by omega
    have hbits : (s.input.drop (3 * g)).take 3 = [inBit s (3 * g), inBit s (3 * g + 1), inBit s (3 * g + 2)] := by
      rw [take_drop_eq_map_range', hthree, ← input_getD (by omega), ← input_getD (by omega), ← input_getD (by omega)]
      rfl
    refine (padTo_getD_of_lt (hlen ▸ hg)).trans ?_
    rw [groups_map_getD (hthird ▸ hg), hr, Nat.mul_comm, hbits, majority_three]

/-- Settles O31: MOVE hands the replicated input to REP_DEC, which decodes it; the vote is `majority_eq`. -/
theorem repetitionRoundTrip : Obligations.RepetitionRoundTrip := by
  refine ⟨fun s hinv hv hfit => ?_, fun q b e he h1 h0 => ?_⟩
  · have hr := hinv.one_le_r hv
    have hl : s.len ≤ s.bufBits := (Nat.le_mul_of_pos_right _ hr).trans hfit
    have hin : s.input.length = s.len := input_length hinv.mem_wf hl
    have hlen : (replicateBits s.r s.input).length = s.input.length * s.r := replicateBits_length s.r s.input
    obtain ⟨-, -, hmax⟩ := params_bounds hinv.params_wf
    have hlen16 : (BitVec.ofNat 16 (replicateBits s.r s.input).length).toNat = s.input.length * s.r := by
      rw [hlen, hin, BitVec.toNat_ofNat]
      exact Nat.mod_eq_of_lt (hfit.trans_lt (Nat.lt_of_le_of_lt hmax (by decide)))
    refine ⟨_, _, _, exec_repEnc_fits hv hl hfit, rfl, exec_repDec_replicated hv hr rfl hlen16 (hin ▸ hfit),
      fun j hj => ?_, ?_, rfl, rfl⟩
    · exact (padTo_getD_of_lt (hin ▸ hj)).trans (input_getD hj)
    · rw [complete_outLen]
      exact (congrArg (BitVec.ofNat 16) hin).trans (BitVec.ofNat_toNat 16 s.inLen)
  · exact majority_eq (fun hb => by have := h1 hb; omega) (fun hb => by have := h0 hb; omega)

end Sys2Proof.Machine
end

section
/-! Division by the generator as a three-bit shift register, the syndrome as its final value, the single-bit syndromes, and
what the search and the decoder's branches follow from (spec 41_bch.md R130 to R140). -/

namespace Sys2Proof.Machine

open Sys2Proof.Claims

/-! ### The division loop (R130) -/

theorem flipBit_getD_of_ne {i j : Nat} (h : j ≠ i) (y : Bits) : (flipBit y i).getD j false = y.getD j false := by
  simp [flipBit, h.symm]

theorem xorBit_true (b : Bits) (j : Nat) : xorBit b j true = flipBit b j := by
  simp [xorBit, flipBit]

theorem xorBit_false (b : Bits) (j : Nat) : xorBit b j false = b := by
  rw [xorBit, Bool.xor_false]
  by_cases h : j < b.length
  · simp [h]
  · exact List.set_eq_of_length_le (Nat.le_of_not_lt h)

/-- The generator's coefficients are 1, 0, 1, 1, so a step that adds it inverts three bits (R7, R130). -/
theorem addGenerator_eq_flips (b : Bits) (i : Nat) :
    addGenerator b i = flipBit (flipBit (flipBit b i) (i + 2)) (i + 3) := by
  simp [addGenerator, List.range_succ, Config.generator, xorBit_true, xorBit_false]

theorem divideStep_of_one {b : Bits} {i : Nat} (h : b.getD i false = true) :
    divideStep b i = flipBit (flipBit (flipBit b i) (i + 2)) (i + 3) := by
  rw [divideStep, if_pos h, addGenerator_eq_flips]

theorem divideStep_of_zero {b : Bits} {i : Nat} (h : b.getD i false = false) : divideStep b i = b := by
  rw [divideStep, h, if_neg Bool.false_ne_true]

theorem lt_length_of_getD {b : Bits} {i : Nat} (h : b.getD i false = true) : i < b.length := by
  by_contra hi
  simp [Nat.le_of_not_lt hi] at h

/-- Step `i` touches no index below `i`. -/
theorem divideStep_getD_of_lt {i j : Nat} (h : j < i) (b : Bits) : (divideStep b i).getD j false = b.getD j false := by
  cases hb : b.getD i false with
  | false => rw [divideStep_of_zero hb]
  | true =>
    rw [divideStep_of_one hb, flipBit_getD_of_ne (by omega), flipBit_getD_of_ne (by omega), flipBit_getD_of_ne h.ne]

/-- Step `i` clears index `i`. -/
theorem divideStep_getD_self (b : Bits) (i : Nat) : (divideStep b i).getD i false = false := by
  cases hb : b.getD i false with
  | false => rw [divideStep_of_zero hb, hb]
  | true =>
    rw [divideStep_of_one hb, flipBit_getD_of_ne (by omega), flipBit_getD_of_ne (by omega),
      flipBit_getD (lt_length_of_getD hb), if_pos rfl, hb]
    rfl

/-- After the loop the first `k` bits are 0 (R130). -/
theorem divide_getD_of_lt {k j : Nat} (b : Bits) (h : j < k) : (divide k b).getD j false = false := by
  induction k with
  | zero => cases h
  | succ k ih =>
    rw [divide_succ]
    obtain hlt | rfl := Nat.lt_succ_iff_lt_or_eq.mp h
    · rw [divideStep_getD_of_lt hlt, ih hlt]
    · exact divideStep_getD_self _ _

theorem divide_zeros (k n : Nat) : divide k (zeros n) = zeros n := by
  induction k with
  | zero => rfl
  | succ k ih =>
    have hk : (zeros n).getD k false = false := by simp [List.getElem?_replicate]; split <;> rfl
    rw [divide_succ, ih, divideStep_of_zero hk]

/-- What the division leaves is `k` zeros and the syndrome tail. -/
theorem divide_eq_append_syndromeTail {k : Nat} {y : Bits} (h : k ≤ y.length) :
    divide k y = zeros k ++ syndromeTail k y := by
  have htake : (divide k y).take k = zeros k := by
    apply List.ext_getElem
    · simp [h]
    · intro j hj _
      have hz := divide_getD_of_lt y (k := k) (j := j) (by simp at hj; omega)
      have hlt : j < (divide k y).length := by simp at hj ⊢; omega
      rw [List.getD_eq_getElem _ _ hlt] at hz
      simpa using hz
  rw [← htake, syndromeTail, List.take_append_drop]

/-! ### Division as a shift register

`shiftIn` is one step of Horner's rule modulo x^3 + x + 1: multiply by x, add the next coefficient. The division loop does
not change the register's final value, and in the end that value is the syndrome. -/

/-- Multiplication by `x` modulo `x^3 + x + 1`, the coefficient of `x^2` in bit 2 (R9, R131). -/
def timesX (s : BitVec 3) : BitVec 3 := (s <<< 1) ^^^ (if s.getLsbD 2 then 3 else 0)

/-- The remainder after one more coefficient. -/
def shiftIn (s : BitVec 3) (b : Bool) : BitVec 3 := timesX s ^^^ (if b then 1 else 0)

/-- The remainder of a whole word, its index 0 the highest-order coefficient (R9). -/
def remainder (y : Bits) : BitVec 3 := y.foldl shiftIn 0

/-- The remainder of `x^m`. -/
def xPow (m : Nat) : BitVec 3 := timesX^[m] 1

theorem timesX_xor : ∀ s t, timesX (s ^^^ t) = timesX s ^^^ timesX t := by decide

theorem timesX_cube : ∀ s, timesX (timesX (timesX s)) = timesX s ^^^ s := by decide

theorem shiftIn_xor (s t : BitVec 3) (a b : Bool) : shiftIn (s ^^^ t) (a.xor b) = shiftIn s a ^^^ shiftIn t b := by
  have hab : (if a.xor b then 1 else 0 : BitVec 3) = (if a then 1 else 0) ^^^ (if b then 1 else 0) := by
    cases a <;> cases b <;> rfl
  rw [shiftIn, shiftIn, shiftIn, timesX_xor, hab]
  ac_rfl

/-- Linearity, with a start value for each of the two words (R135). -/
theorem foldl_shiftIn_xorWords {y z : Bits} (h : y.length = z.length) (s t : BitVec 3) :
    (xorWords y z).foldl shiftIn (s ^^^ t) = y.foldl shiftIn s ^^^ z.foldl shiftIn t := by
  induction y generalizing z s t with
  | nil => cases z with
    | nil => rfl
    | cons => cases h
  | cons a y ih => cases z with
    | nil => cases h
    | cons b z =>
      have hcons : xorWords (a :: y) (b :: z) = a.xor b :: xorWords y z := rfl
      rw [hcons, List.foldl_cons, shiftIn_xor]
      exact ih (Nat.succ.inj h) _ _

theorem remainder_xorWords {y z : Bits} (h : y.length = z.length) :
    remainder (xorWords y z) = remainder y ^^^ remainder z := foldl_shiftIn_xorWords h 0 0

/-- A start value counts as much as the zeros shifted in after it. -/
theorem foldl_shiftIn_xor_start (y : Bits) (s t : BitVec 3) :
    y.foldl shiftIn (s ^^^ t) = y.foldl shiftIn s ^^^ timesX^[y.length] t := by
  induction y generalizing s t with
  | nil => rfl
  | cons b y ih =>
    have hb : shiftIn (s ^^^ t) b = shiftIn s b ^^^ timesX t := by
      rw [shiftIn, shiftIn, timesX_xor]
      ac_rfl
    rw [List.foldl_cons, hb, ih]
    rfl

theorem remainder_append (y z : Bits) : remainder (y ++ z) = remainder z ^^^ timesX^[z.length] (remainder y) := by
  have h := foldl_shiftIn_xor_start z 0#3 (remainder y)
  rw [BitVec.zero_xor] at h
  exact List.foldl_append.trans h

theorem remainder_zeros (n : Nat) : remainder (zeros n) = 0#3 := by
  induction n with
  | zero => rfl
  | succ n ih => exact ih

/-- Inverting bit `i` adds the remainder of the power of `x` that index `i` stands for (R9, R136). -/
theorem remainder_flipBit {y : Bits} {i : Nat} (h : i < y.length) :
    remainder (flipBit y i) = remainder y ^^^ xPow (y.length - 1 - i) := by
  suffices hs : ∀ s, (flipBit y i).foldl shiftIn s = y.foldl shiftIn s ^^^ xPow (y.length - 1 - i) from hs 0
  induction y generalizing i with
  | nil => cases h
  | cons b y ih =>
    intro s
    cases i with
    | zero =>
      have hflip : shiftIn s (!b) = shiftIn s b ^^^ 1 := by
        cases b <;> simp [shiftIn]
      exact (congrArg (y.foldl shiftIn) hflip).trans (foldl_shiftIn_xor_start y _ 1)
    | succ i =>
      have hexp : (b :: y).length - 1 - (i + 1) = y.length - 1 - i := by simp; omega
      rw [hexp]
      exact ih (Nat.lt_of_succ_lt_succ h) (shiftIn s b)

/-- A division step adds a multiple of the generator, so it keeps the remainder (R131). -/
theorem remainder_divideStep {b : Bits} {i : Nat} (h : i + 3 < b.length) : remainder (divideStep b i) = remainder b := by
  cases hb : b.getD i false with
  | false => rw [divideStep_of_zero hb]
  | true =>
    obtain ⟨m, hm⟩ : ∃ m, b.length = m + i + 4 := ⟨b.length - i - 4, by omega⟩
    have h0 : b.length - 1 - i = m + 3 := by omega
    have h2 : b.length - 1 - (i + 2) = m + 1 := by omega
    have h3 : b.length - 1 - (i + 3) = m := by omega
    have hgen : xPow (m + 3) = xPow (m + 1) ^^^ xPow m := by
      simp only [xPow, Function.iterate_succ_apply']
      exact timesX_cube _
    rw [divideStep_of_one hb, remainder_flipBit (by simpa using h), remainder_flipBit (by simp; omega),
      remainder_flipBit (by omega)]
    simp only [flipBit_length, h0, h2, h3, hgen]
    simp [BitVec.xor_assoc]

theorem remainder_divide {k : Nat} {b : Bits} (h : k + 3 ≤ b.length) : remainder (divide k b) = remainder b := by
  induction k with
  | zero => rfl
  | succ k ih =>
    rw [divide_succ, remainder_divideStep (by simp; omega), ih (by omega)]

/-- Three bits are their own remainder. -/
theorem remainder_three :
    ∀ a b c : Bool, remainder [a, b, c] = BitVec.ofBool a ++ BitVec.ofBool b ++ BitVec.ofBool c := by
  decide

theorem remainder_syndromeTail {k : Nat} {y : Bits} (h : y.length = k + 3) :
    remainder (syndromeTail k y) = syndrome k y := by
  obtain ⟨a, b, c, ht⟩ : ∃ a b c, syndromeTail k y = [a, b, c] :=
    List.length_eq_three.mp (by rw [syndromeTail_length, h, Nat.add_sub_cancel_left])
  rw [syndrome, ht]
  exact remainder_three a b c

/-- The syndrome of a word is its remainder (R131). -/
theorem syndrome_eq_remainder {k : Nat} {y : Bits} (h : y.length = k + 3) : syndrome k y = remainder y := by
  rw [← remainder_syndromeTail h, ← remainder_divide h.ge, divide_eq_append_syndromeTail (by omega), remainder_append,
    remainder_zeros]
  have hz : ∀ n, timesX^[n] 0#3 = 0#3 := fun n => Function.iterate_fixed rfl n
  rw [hz, BitVec.xor_zero]

/-! ### Codewords (R132, R134) -/

theorem encodeWord_take (msg : Bits) : (encodeWord msg).take msg.length = msg := List.take_left' rfl

theorem encodeWord_drop (msg : Bits) : (encodeWord msg).drop msg.length = syndromeTail msg.length (msg ++ zeros 3) :=
  List.drop_left' rfl

/-- A codeword's parity bits cancel the remainder of the message (R134). -/
theorem syndrome_encodeWord (msg : Bits) : syndrome msg.length (encodeWord msg) = 0 := by
  have hlen : (msg ++ zeros 3).length = msg.length + 3 := by simp
  have htail : (syndromeTail msg.length (msg ++ zeros 3)).length = 3 := by
    rw [syndromeTail_length, hlen, Nat.add_sub_cancel_left]
  have hmsg : syndrome msg.length (msg ++ zeros 3) = timesX^[3] (remainder msg) := by
    rw [syndrome_eq_remainder hlen, remainder_append, remainder_zeros, BitVec.zero_xor, List.length_replicate]
  rw [syndrome_eq_remainder (encodeWord_length msg), encodeWord, remainder_append, htail, ← hmsg]
  exact (congrArg (· ^^^ _) (remainder_syndromeTail hlen)).trans BitVec.xor_self

theorem encodeWord_zeros (k : Nat) : encodeWord (zeros k) = zeros (k + 3) := by
  have happ : zeros k ++ zeros 3 = zeros (k + 3) := List.replicate_append_replicate
  rw [encodeWord, List.length_replicate, happ, syndromeTail, divide_zeros, List.drop_replicate,
    Nat.add_sub_cancel_left, happ]

/-! ### The single-bit syndromes (R135) -/

theorem unitWord_length (n j : Nat) : (unitWord n j).length = n := by simp [unitWord]

theorem unitWord_eq_flipBit (n j : Nat) : unitWord n j = flipBit (zeros n) j := by
  apply List.ext_getElem
  · simp [unitWord]
  · intro i hi _
    have hin : i < n := by simpa [unitWord] using hi
    by_cases hij : i = j
    · subst hij; simp [unitWord, flipBit, hin]
    · simp [unitWord, flipBit, hij, Ne.symm hij]

/-- The table of R135: `x^7` leaves the remainder 1, so the powers repeat with period 7. -/
theorem xPow_eq_singleBitSyndrome (m : Nat) : xPow m = singleBitSyndrome.getD (m % 7) 0 := by
  have hperiod : Function.IsPeriodicPt timesX 7 1 := by decide
  have htable : ∀ d < 7, timesX^[d] 1 = singleBitSyndrome.getD d 0 := by decide
  rw [xPow, ← hperiod.iterate_mod_apply, htable _ (Nat.mod_lt _ (by decide))]

theorem singleBitSyndrome_ne_zero : ∀ d < 7, singleBitSyndrome.getD d 0 ≠ 0 := by decide

theorem singleBitSyndrome_injective :
    ∀ d < 7, ∀ e < 7, singleBitSyndrome.getD d 0 = singleBitSyndrome.getD e 0 → d = e := by decide

theorem singleBitSyndrome_surjective : ∀ s : BitVec 3, s ≠ 0 → ∃ d < 7, s = singleBitSyndrome.getD d 0 := by decide

theorem syndrome_unitWord {k j : Nat} (h : j < k + 3) :
    syndrome k (unitWord (k + 3) j) = singleBitSyndrome.getD ((k + 2 - j) % 7) 0 := by
  rw [syndrome_eq_remainder (unitWord_length _ _), unitWord_eq_flipBit, remainder_flipBit (by simpa using h),
    remainder_zeros, BitVec.zero_xor, xPow_eq_singleBitSyndrome, List.length_replicate]
  rfl

theorem syndrome_unitWord_ne_zero {k j : Nat} (h : j < k + 3) : syndrome k (unitWord (k + 3) j) ≠ 0 :=
  syndrome_unitWord h ▸ singleBitSyndrome_ne_zero _ (Nat.mod_lt _ (by decide))

theorem syndrome_unitWord_eq_iff {k i j : Nat} (hi : i < k + 3) (hj : j < k + 3) :
    syndrome k (unitWord (k + 3) i) = syndrome k (unitWord (k + 3) j) ↔ i % 7 = j % 7 := by
  rw [syndrome_unitWord hi, syndrome_unitWord hj]
  constructor
  · intro h
    have := singleBitSyndrome_injective _ (Nat.mod_lt _ (by decide)) _ (Nat.mod_lt _ (by decide)) h
    omega
  · intro h
    have hd : (k + 2 - i) % 7 = (k + 2 - j) % 7 := by omega
    rw [hd]

theorem syndrome_xorWords {k : Nat} {y z : Bits} (hy : y.length = k + 3) (hz : z.length = k + 3) :
    syndrome k (xorWords y z) = syndrome k y ^^^ syndrome k z := by
  have hyz : (xorWords y z).length = k + 3 := by simp [xorWords, hy, hz]
  rw [syndrome_eq_remainder hyz, syndrome_eq_remainder hy, syndrome_eq_remainder hz,
    remainder_xorWords (hy.trans hz.symm)]

/-- Inverting bit `i` adds the single-bit syndrome of `i` (R136). -/
theorem syndrome_flipBit {k i : Nat} {y : Bits} (hy : y.length = k + 3) (hi : i < k + 3) :
    syndrome k (flipBit y i) = syndrome k y ^^^ syndrome k (unitWord (k + 3) i) := by
  rw [syndrome_eq_remainder ((flipBit_length y i).trans hy), remainder_flipBit (hy ▸ hi), syndrome_eq_remainder hy,
    syndrome_unitWord hi, xPow_eq_singleBitSyndrome, hy]
  rfl

/-- With n ≥ 7 every nonzero value is the syndrome of a single-bit word (R145). -/
theorem exists_unitWord_syndrome {k : Nat} (hk : 4 ≤ k) {s : BitVec 3} (hs : s ≠ 0) :
    ∃ i < 7, s = syndrome k (unitWord (k + 3) i) := by
  obtain ⟨d, hd, rfl⟩ := singleBitSyndrome_surjective s hs
  have hi : (k + 2 - d) % 7 < 7 := Nat.mod_lt _ (by decide)
  have hback : (k + 2 - (k + 2 - d) % 7) % 7 = d := by omega
  exact ⟨(k + 2 - d) % 7, hi, by rw [syndrome_unitWord (by omega), hback]⟩

/-! ### The search (R136, R137) -/

theorem syndrome_flipBit_eq_zero_iff {k i : Nat} {y : Bits} (hy : y.length = k + 3) (hi : i < k + 3) :
    syndrome k (flipBit y i) = 0 ↔ syndrome k y = syndrome k (unitWord (k + 3) i) := by
  rw [syndrome_flipBit hy hi]
  exact BitVec.xor_eq_zero_iff

theorem search_eq_some_iff {k i : Nat} {y : Bits} :
    search k y = some i ↔
      i < y.length ∧ syndrome k (flipBit y i) = 0 ∧ ∀ h, h < i → syndrome k (flipBit y h) ≠ 0 := by
  refine ⟨search_some, fun ⟨hi, h0, hl⟩ => ?_⟩
  simp only [search, List.find?_range_eq_some, List.mem_range]
  exact ⟨by simpa using h0, hi, fun j hj => by simpa using hl j hj⟩

/-- A word with the syndrome of a single-bit word is corrected at the least index of its class modulo 7 (R137). -/
theorem search_of_syndrome_unitWord {k i : Nat} {y : Bits} (hy : y.length = k + 3) (hi : i < k + 3)
    (hs : syndrome k y = syndrome k (unitWord (k + 3) i)) : search k y = some (i % 7) := by
  have hle : i % 7 ≤ i := Nat.mod_le i 7
  have hq : ∀ j < k + 3, (syndrome k (flipBit y j) = 0 ↔ i % 7 = j % 7) := fun j hj => by
    rw [syndrome_flipBit_eq_zero_iff hy hj, hs, syndrome_unitWord_eq_iff hi hj]
  refine search_eq_some_iff.mpr ⟨by omega, (hq _ (by omega)).mpr (Nat.mod_mod i 7).symm, fun h hh h0 => ?_⟩
  have := (hq h (by omega)).mp h0
  omega

theorem search_some_lt_seven {k i : Nat} {y : Bits} (hy : y.length = k + 3) (h : search k y = some i) : i < 7 := by
  obtain ⟨hi, h0, -⟩ := search_some h
  rw [hy] at hi
  have hmod := search_of_syndrome_unitWord hy hi ((syndrome_flipBit_eq_zero_iff hy hi).mp h0)
  have : i = i % 7 := Option.some.inj (h.symm.trans hmod)
  omega

theorem search_eq_none_iff {k : Nat} {y : Bits} (hy : y.length = k + 3) :
    search k y = none ↔ ∀ i < k + 3, syndrome k y ≠ syndrome k (unitWord (k + 3) i) := by
  rw [search_none, hy]
  exact forall₂_congr fun i hi => not_congr (syndrome_flipBit_eq_zero_iff hy hi)

/-! ### The three branches of the decoder (R138 to R140) -/

theorem decodeWord_clean {k : Nat} {y : Bits} (h : syndrome k y = 0) :
    decodeWord k y = { msg := y.take k, branch := .clean, pos := 0 } := if_pos h

theorem decodeWord_corrected {k i : Nat} {y : Bits} (h : syndrome k y ≠ 0) (hs : search k y = some i) :
    decodeWord k y = { msg := (flipBit y i).take k, branch := .corrected, pos := i } := by
  rw [decodeWord, if_neg h, hs]

theorem decodeWord_uncorrected {k : Nat} {y : Bits} (h : syndrome k y ≠ 0) (hs : search k y = none) :
    decodeWord k y = { msg := y.take k, branch := .uncorrected, pos := 0 } := by
  rw [decodeWord, if_neg h, hs]

theorem decodeWord_branch_uncorrected_iff {k : Nat} {y : Bits} :
    (decodeWord k y).branch = .uncorrected ↔ syndrome k y ≠ 0 ∧ search k y = none := by
  by_cases h : syndrome k y = 0
  · simp [decodeWord_clean h, h]
  · cases hs : search k y with
    | none => exact iff_of_true (by rw [decodeWord_uncorrected h hs]) ⟨h, rfl⟩
    | some i => simp [decodeWord_corrected h hs]

theorem decodeWord_branch_corrected_iff {k : Nat} {y : Bits} (hy : y.length = k + 3) (h : syndrome k y ≠ 0) :
    (decodeWord k y).branch = .corrected ↔ ∃ i, i < k + 3 ∧ syndrome k y = syndrome k (unitWord (k + 3) i) := by
  cases hs : search k y with
  | none => simpa [decodeWord_uncorrected h hs] using (search_eq_none_iff hy).mp hs
  | some i =>
    obtain ⟨hi, h0, -⟩ := search_some hs
    rw [hy] at hi
    exact iff_of_true (by rw [decodeWord_corrected h hs]) ⟨i, hi, (syndrome_flipBit_eq_zero_iff hy hi).mp h0⟩

end Sys2Proof.Machine
end

section
/-! The syndrome as a polynomial remainder over GF(2), the uncorrected syndromes, and the statements on the division, the
code, the syndrome and the search (spec 41_bch.md R130 to R137, R145). -/

namespace Sys2Proof.Machine

open Sys2Proof.Claims Polynomial

/-! ### Words and register values as polynomials over GF(2) (R9, R131) -/

/-- A bit as a constant polynomial. -/
noncomputable def bitPoly (b : Bool) : (ZMod 2)[X] := if b then 1 else 0

/-- The polynomial of a word, its index 0 the highest-order coefficient (R9). -/
noncomputable def wordPoly (y : Bits) : (ZMod 2)[X] :=
  ∑ j ∈ Finset.range y.length, bitPoly (y.getD j false) * X ^ (y.length - 1 - j)

/-- The polynomial of degree below 3 that a register value stands for, highest coefficient in bit 2 (R131). -/
noncomputable def registerPoly (s : BitVec 3) : (ZMod 2)[X] :=
  bitPoly (s.getLsbD 2) * X ^ 2 + bitPoly (s.getLsbD 1) * X + bitPoly (s.getLsbD 0)

/-- The generator `x^3 + x + 1` (R7). -/
noncomputable def generatorPoly : (ZMod 2)[X] := X ^ 3 + X + 1

theorem bitPoly_mul (b : Bool) (p : (ZMod 2)[X]) : bitPoly b * p = if b then p else 0 := by
  cases b <;> simp [bitPoly]

theorem bitPoly_xor (a b : Bool) : bitPoly (a.xor b) = bitPoly a + bitPoly b := by
  cases a <;> cases b <;> simp [bitPoly, CharTwo.add_self_eq_zero]

theorem shiftIn_bits : ∀ (s : BitVec 3) (b : Bool),
    (shiftIn s b).getLsbD 2 = s.getLsbD 1 ∧ (shiftIn s b).getLsbD 1 = (s.getLsbD 0).xor (s.getLsbD 2) ∧
      (shiftIn s b).getLsbD 0 = (s.getLsbD 2).xor b := by
  decide

/-- One more coefficient at the low end multiplies the rest by `x`. -/
theorem wordPoly_append_singleton (y : Bits) (b : Bool) : wordPoly (y ++ [b]) = wordPoly y * X + bitPoly b := by
  have hlow : ∀ j ∈ Finset.range y.length, bitPoly ((y ++ [b]).getD j false) * X ^ (y.length - j)
      = bitPoly (y.getD j false) * X ^ (y.length - 1 - j) * X := fun j hj => by
    have hlt := Finset.mem_range.mp hj
    have hexp : y.length - j = y.length - 1 - j + 1 := by omega
    rw [List.getD_append _ _ _ _ hlt, hexp, pow_succ, mul_assoc]
  simp only [wordPoly, List.length_append, List.length_singleton, Nat.add_sub_cancel, Finset.sum_range_succ,
    Finset.sum_congr rfl hlow, Finset.sum_mul]
  simp

/-- A register step subtracts at most one multiple of the generator (R130, R131). -/
theorem registerPoly_shiftIn (s : BitVec 3) (b : Bool) :
    registerPoly s * X + bitPoly b = registerPoly (shiftIn s b) + generatorPoly * bitPoly (s.getLsbD 2) := by
  obtain ⟨h2, h1, h0⟩ := shiftIn_bits s b
  simp only [registerPoly, generatorPoly, h2, h1, h0, bitPoly_xor]
  linear_combination -(bitPoly (s.getLsbD 2) * (X + 1)) * (CharTwo.two_eq_zero (R := (ZMod 2)[X]))

/-- The word's polynomial is the remainder's plus a multiple of the generator. -/
theorem exists_quotient (y : Bits) : ∃ q, registerPoly (remainder y) + generatorPoly * q = wordPoly y := by
  induction y using List.reverseRecOn with
  | nil => exact ⟨0, by simp [wordPoly, registerPoly, remainder, bitPoly]⟩
  | append_singleton y b ih =>
    obtain ⟨q, hq⟩ := ih
    have hstep : remainder (y ++ [b]) = shiftIn (remainder y) b := List.foldl_append
    refine ⟨q * X + bitPoly ((remainder y).getLsbD 2), ?_⟩
    rw [wordPoly_append_singleton, ← hq, hstep]
    linear_combination -registerPoly_shiftIn (remainder y) b

theorem generatorPoly_monic : generatorPoly.Monic := by
  unfold generatorPoly; monicity!

theorem degree_registerPoly_lt (s : BitVec 3) : (registerPoly s).degree < generatorPoly.degree := by
  have hg : generatorPoly.degree = 3 := by unfold generatorPoly; compute_degree!
  have hle : (registerPoly s).degree ≤ 2 := by
    simp only [registerPoly, bitPoly]
    split_ifs <;> compute_degree
  rw [hg]
  exact hle.trans_lt (by decide)

/-- The register's final value is the remainder of the word's polynomial by the generator (R131). -/
theorem wordPoly_modByMonic (y : Bits) : wordPoly y %ₘ generatorPoly = registerPoly (remainder y) := by
  obtain ⟨q, hq⟩ := exists_quotient y
  exact (div_modByMonic_unique q _ generatorPoly_monic ⟨hq, degree_registerPoly_lt _⟩).2

/-- The syndrome as a number: the tail's first bit is worth 4 (R34, R131). -/
theorem syndrome_toNat (k : Nat) (y : Bits) :
    (syndrome k y).toNat = 4 * ((divide k y).getD k false).toNat + 2 * ((divide k y).getD (k + 1) false).toNat
      + ((divide k y).getD (k + 2) false).toNat := by
  have hbits : ∀ a b c : Bool, (BitVec.ofBool a ++ BitVec.ofBool b ++ BitVec.ofBool c).toNat
      = 4 * a.toNat + 2 * b.toNat + c.toNat := by decide
  rw [syndrome, hbits]
  simp [syndromeTail]

/-! ### When no index qualifies (R145) -/

/-- The values that are no single-bit syndrome of a word of 4, 5 or 6 bits, read off the table of R135 (R145). -/
theorem not_unitWord_syndrome_iff_short {k : Nat} (hk : k = 1 ∨ k = 2 ∨ k = 3) :
    ∀ s : BitVec 3, (s ≠ 0 ∧ ∀ i < k + 3, s ≠ syndrome k (unitWord (k + 3) i)) ↔
      ((k = 1 ∧ (s = 5 ∨ s = 6 ∨ s = 7)) ∨ (k = 2 ∧ (s = 5 ∨ s = 7)) ∨ (k = 3 ∧ s = 5)) := by
  obtain rfl | rfl | rfl := hk <;> decide

theorem decodeWord_uncorrected_iff {k : Nat} {y : Bits} (hk : 1 ≤ k) (hy : y.length = k + 3) :
    (decodeWord k y).branch = .uncorrected ↔
      ((k = 1 ∧ (syndrome k y = 5 ∨ syndrome k y = 6 ∨ syndrome k y = 7)) ∨
       (k = 2 ∧ (syndrome k y = 5 ∨ syndrome k y = 7)) ∨ (k = 3 ∧ syndrome k y = 5)) := by
  rw [decodeWord_branch_uncorrected_iff, search_eq_none_iff hy]
  by_cases h4 : 4 ≤ k
  · refine iff_of_false (fun ⟨hs, hnone⟩ => ?_) (by omega)
    obtain ⟨i, hi, h⟩ := exists_unitWord_syndrome h4 hs
    exact hnone i (by omega) h
  · exact not_unitWord_syndrome_iff_short (by omega) _

/-! ### The statements -/

/-- Settles O19: each step inverts bits i, i+2 and i+3 or does nothing, and `divide_getD_of_lt` says that the first k
bits are cleared. -/
theorem divisionLoop : Obligations.DivisionLoop := by
  intro k b hb
  refine ⟨(divide_length k b).trans hb, fun j hj => divide_getD_of_lt b hj, fun i hi => ?_, rfl⟩
  rw [divide_succ]
  split
  · rename_i h1
    have h2 : (flipBit (divide i b) i).getD (i + 2) false = (divide i b).getD (i + 2) false :=
      flipBit_getD_of_ne (by omega) _
    have h3 : (flipBit (flipBit (divide i b) i) (i + 2)).getD (i + 3) false = (divide i b).getD (i + 3) false := by
      rw [flipBit_getD_of_ne (by omega), flipBit_getD_of_ne (by omega)]
    rw [divideStep_of_one h1, flipBit, h3, flipBit, h2, flipBit]
  · exact divideStep_of_zero (Bool.eq_false_iff.mpr ‹_›)

/-- Settles O20: the division loop keeps the shift register's value, and the register keeps the polynomial modulo the
generator. -/
theorem syndromeIsPolynomialRemainder : Obligations.SyndromeIsPolynomialRemainder := by
  intro k y hy
  refine ⟨?_, syndrome_toNat k y⟩
  have h := wordPoly_modByMonic y
  rw [← syndrome_eq_remainder hy] at h
  simp only [wordPoly, registerPoly, bitPoly_mul, hy] at h
  exact h

/-- Settles O21: the parity bits are the tail of the division, and they cancel the message's remainder. -/
theorem codewordsHaveZeroSyndrome : Obligations.CodewordsHaveZeroSyndrome := fun msg =>
  ⟨encodeWord_length msg, encodeWord_take msg, encodeWord_drop msg, syndrome_encodeWord msg⟩

/-- Settles O22: the shift register is linear, and the powers of x have period 7. -/
theorem syndromeLinearWithPeriodSeven : Obligations.SyndromeLinearWithPeriodSeven :=
  ⟨fun _ _ _ => syndrome_xorWords, fun _ _ => syndrome_unitWord, fun _ _ _ => syndrome_unitWord_eq_iff⟩

/-- Settles O23: an index qualifies exactly when its single-bit syndrome is the word's, so the qualifying indices are one
class modulo 7. -/
theorem searchTakesLeastIndexBelowSeven : Obligations.SearchTakesLeastIndexBelowSeven := by
  intro k y hy _
  refine ⟨fun i => hy ▸ search_eq_some_iff, hy ▸ search_none, fun i => search_some_lt_seven hy,
    fun i j hi hj h0 => ?_⟩
  rw [syndrome_flipBit_eq_zero_iff hy hi] at h0
  rw [syndrome_flipBit_eq_zero_iff hy hj, h0, syndrome_unitWord_eq_iff hi hj]

/-- Settles O27: a nonzero syndrome is corrected exactly when it is a single-bit one; the table gives the values that are
not, and the words of 4, 5 and 6 bits are counted. -/
theorem uncorrectedBranchExactly : Obligations.UncorrectedBranchExactly := by
  refine ⟨fun k y => decodeWord_uncorrected_iff, fun k y => decodeWord_branch_corrected_iff, ?_, ?_, ?_⟩ <;> decide

end Sys2Proof.Machine
end

section
/-! BCH_ENC and BCH_DEC on a configured state, and the statements on the two commands and on decoding errors
(spec 41_bch.md R133, R138 to R144). -/

namespace Sys2Proof.Machine

open Sys2Proof.Claims

/-! ### The two commands past their checks (R133, R141) -/

/-- A configured block has 1 ≤ k ≤ 253 and n = k + 3 ≤ BUF_BITS (R7, R184). -/
theorem Invariant.code_bounds {s : State} (h : Invariant s) (hv : s.cfgValid = true) :
    1 ≤ s.act.k.toNat ∧ s.act.k.toNat ≤ 253 ∧ s.act.n.toNat = s.act.k.toNat + 3 ∧ s.act.n.toNat ≤ s.bufBits := by
  obtain ⟨hk, hk', hn, hn', -⟩ := legalConfig_bounds (h.cfg_legal hv)
  obtain ⟨-, hb, -⟩ := params_bounds h.params_wf
  exact ⟨hk, hk', hn, hn'.trans hb⟩

theorem exec_bchEnc_fits {s : State} (hv : s.cfgValid = true) (hl : s.len = s.k) :
    exec .bchEnc s = .next (complete (writeOut (encodeWord s.input) s)) :=
  exec_of_runs (.bchEnc hv (decide_eq_true hl))

theorem exec_bchDec_fits {s : State} {len : Nat} (hv : s.cfgValid = true) (hl : s.len = s.n)
    (hlen : (decodeWord s.k s.input).msg.length = len) :
    exec .bchDec s = .next { delivers (padTo s.bufBits (decodeWord s.k s.input).msg) len s with
      synd := syndrome s.k s.input, corrPos := BitVec.ofNat 8 (decodeWord s.k s.input).pos
      branch := (decodeWord s.k s.input).branch } := by
  subst hlen
  exact exec_of_runs (.bchDec hv (decide_eq_true hl))

theorem exec_bscTx_fits {s : State} (hv : s.cfgValid = true) (hl : s.len ≤ s.bufBits)
    (hd : s.len ≤ s.taken.length + s.port.length) :
    exec .bscTx s = .next (complete (writeOut (bsc s.act.pBsc s.input (s.drawn s.len)) (s.afterDraws s.len))) :=
  exec_of_runs (.bscTx hv (decide_eq_true hl) hd)

/-- Bit `j` of a codeword is the message's below `k` and the remainder's from `k` on (R132). -/
theorem encodeWord_getD_of_ge {msg : Bits} {j : Nat} (h : msg.length ≤ j) :
    (encodeWord msg).getD j false = (divide msg.length (msg ++ zeros 3)).getD j false := by
  rw [encodeWord, List.getD_append_right _ _ _ _ h]
  simp [syndromeTail, h]

theorem encodeWord_getD_of_lt {msg : Bits} {j : Nat} (h : j < msg.length) :
    (encodeWord msg).getD j false = msg.getD j false := List.getD_append _ _ _ _ h

theorem take_getD {k j : Nat} {y : Bits} (h : j < k) : (y.take k).getD j false = y.getD j false := by
  simp [h]

/-- The position of every branch is an index of the word (R35, R138 to R140). -/
theorem decodeWord_pos_lt (k : Nat) {y : Bits} (hy : 0 < y.length) : (decodeWord k y).pos < y.length := by
  by_cases h : syndrome k y = 0
  · rwa [decodeWord_clean h]
  · cases hs : search k y with
    | none => rwa [decodeWord_uncorrected h hs]
    | some i => rw [decodeWord_corrected h hs]; exact (search_some hs).1

/-- Settles O17: the two errors, and the codeword bit by bit: the input below k, the remainder from k on, zeros from n on. -/
theorem bchEncResult : Obligations.BchEncResult := by
  refine ⟨encodeWord_zeros, by decide, by decide, by decide, fun s hinv => ?_⟩
  refine ⟨exec_data_notConfigured rfl, fun hv hne => exec_data_badLength rfl hv (decide_eq_false hne), fun hv hl => ?_⟩
  obtain ⟨-, -, hn, hnb⟩ := hinv.code_bounds hv
  have hle : s.len ≤ s.bufBits := le_trans (hl.trans_le (Nat.le_add_right _ 3)) (hn ▸ hnb)
  have hin : s.input.length = s.act.k.toNat := (input_length hinv.mem_wf hle).trans hl
  have htake : s.mem.inBuf.take s.act.k.toNat = s.input := by rw [← hl]; rfl
  have hlen : (encodeWord s.input).length = s.act.n.toNat := by rw [encodeWord_length, hin, hn]
  rw [htake]
  refine ⟨padTo s.bufBits (encodeWord s.input), hlen ▸ exec_bchEnc_fits hv hl, padTo_length_of_le (hlen ▸ hnb),
    List.take_left' hlen, fun j hj => ?_, fun j hkj hjn => ?_, fun j hj => padTo_getD_of_le (hlen ▸ hj)⟩
  · rw [padTo_getD_of_lt (by omega), encodeWord_getD_of_lt (hin ▸ hj), input_getD (hj.trans_eq hl.symm)]
  · rw [padTo_getD_of_lt (hlen ▸ hjn), encodeWord_getD_of_ge (hin ▸ hkj), hin]

/-- What a BCH_DEC without error leaves of the decoder's result `d` on a word with syndrome `synd` (R141). -/
structure Delivered (s : State) (d : DecodeResult) (synd : BitVec 3) (t : State) : Prop where
  err     : t.err = .none
  branch  : t.branch = d.branch
  corrPos : t.corrPos.toNat = d.pos
  synd    : t.synd = synd
  message : t.mem.outBuf.take s.k = d.msg
  outLen  : t.outLen.toNat = s.k

theorem exec_bchDec_delivers {s : State} {y : Bits} (hv : s.cfgValid = true) (hl : s.len = s.n) (hin : s.input = y)
    (hy : y.length = s.k + 3) (hk : s.k ≤ 253) :
    ∃ t, exec .bchDec s = .next t ∧ Delivered s (decodeWord s.k y) (syndrome s.k y) t := by
  have hmsg : (decodeWord s.k y).msg.length = s.k := by rw [decodeWord_msg_length]; omega
  have hpos : (decodeWord s.k y).pos < y.length := decodeWord_pos_lt s.k (by omega)
  subst hin
  refine ⟨_, exec_bchDec_fits hv hl hmsg, rfl, rfl, ?_, rfl, List.take_left' hmsg, ?_⟩
  · exact (BitVec.toNat_ofNat _ _).trans (Nat.mod_eq_of_lt (by omega))
  · exact (BitVec.toNat_ofNat _ _).trans (Nat.mod_eq_of_lt (by omega))

/-- Inside the message, OUT reads as the decoded message. -/
theorem Delivered.outBit {s t : State} {d : DecodeResult} {synd : BitVec 3} (h : Delivered s d synd t) {j : Nat}
    (hj : j < s.k) : outBit t j = d.msg.getD j false := by
  rw [← h.message, take_getD hj]

/-- Settles O18: the two errors, and the three branches of the decoder with the least index of the search. -/
theorem bchDecResult : Obligations.BchDecResult := by
  intro s hinv
  refine ⟨exec_data_notConfigured rfl, fun hv hne => exec_data_badLength rfl hv (decide_eq_false hne), fun hv hl => ?_⟩
  obtain ⟨-, hk, hn, hnb⟩ := hinv.code_bounds hv
  have hin : s.mem.inBuf.take s.act.n.toNat = s.input := by rw [← hl]; rfl
  have hlen : s.input.length = s.act.n.toNat := (input_length hinv.mem_wf (hl.trans_le hnb)).trans hl
  have hmsg : (decodeWord s.act.k.toNat s.input).msg.length = s.act.k.toNat := by rw [decodeWord_msg_length]; omega
  have hpos : (decodeWord s.act.k.toNat s.input).pos < s.input.length := decodeWord_pos_lt _ (by omega)
  have hout : ∀ j < s.act.k.toNat, (padTo s.bufBits (decodeWord s.act.k.toNat s.input).msg).getD j false
      = (decodeWord s.act.k.toNat s.input).msg.getD j false := fun j hj => padTo_getD_of_lt (hmsg.symm ▸ hj)
  have hbit : ∀ j < s.act.k.toNat, s.input.getD j false = inBit s j := fun j hj =>
    input_getD (lt_of_lt_of_eq (by omega) hl.symm)
  rw [hin]
  refine ⟨padTo s.bufBits (decodeWord s.act.k.toNat s.input).msg, (decodeWord s.act.k.toNat s.input).branch,
    (decodeWord s.act.k.toNat s.input).pos, exec_bchDec_fits hv hl hmsg, padTo_length_of_le (by omega), by omega,
    fun j hj => padTo_getD_of_le (hmsg.symm ▸ hj), fun h0 => ?_, fun h0 => ⟨fun i hi hi0 hleast => ?_, fun hnone => ?_⟩⟩
  · have hd := decodeWord_clean h0
    refine ⟨by rw [hd], by rw [hd], fun j hj => ?_⟩
    rw [hout j hj, hd, take_getD hj, hbit j hj]
  · have hi' : i < s.input.length := hlen.symm ▸ hi
    have hd := decodeWord_corrected h0 (search_eq_some_iff.mpr ⟨hi', hi0, hleast⟩)
    refine ⟨by rw [hd], by rw [hd], fun j hj => ?_⟩
    rw [hout j hj, hd, take_getD hj, flipBit_getD hi', ← hbit j hj]
    split
    · subst j; rfl
    · rfl
  · have hd := decodeWord_uncorrected h0 (search_none.mpr (hlen.symm ▸ hnone))
    refine ⟨by rw [hd], by rw [hd], fun j hj => ?_⟩
    rw [hout j hj, hd, take_getD hj, hbit j hj]

/-! ### The round trip (R142) -/

theorem decodeWord_encodeWord (msg : Bits) :
    decodeWord msg.length (encodeWord msg) = { msg := msg, branch := .clean, pos := 0 } := by
  rw [decodeWord_clean (syndrome_encodeWord msg), encodeWord_take]

/-- The state after MOVE (R188). -/
def moved (s : State) : State :=
  complete { accept (encode .move) s with mem := { s.mem with inBuf := s.mem.outBuf }, inLen := s.outLen }

theorem issue_move (s : State) : issue .move s = .next (moved s) := rfl

/-- MOVE makes the sequence just written to OUT the input sequence (R37, R41, R188). -/
theorem moved_len {c : Bits} (hc : c.length < 2 ^ 16) (s : State) : (moved (complete (writeOut c s))).len = c.length :=
  (BitVec.toNat_ofNat _ _).trans (Nat.mod_eq_of_lt hc)

theorem moved_input {c : Bits} (hc : c.length < 2 ^ 16) (s : State) : (moved (complete (writeOut c s))).input = c := by
  rw [State.input, moved_len hc]
  exact List.take_left' rfl

/-- A codeword handed over by MOVE is decoded to its message, clean (R134, R138). -/
theorem issue_bchDec_moved_codeword {s : State} {m : Bits} (hv : s.cfgValid = true) (hm : m.length = s.k)
    (hn : s.n = s.k + 3) (hk : s.k ≤ 253) :
    ∃ t, issue .bchDec (moved (complete (writeOut (encodeWord m) s))) = .next t ∧
      Delivered s { msg := m, branch := .clean, pos := 0 } 0 t := by
  have hlen : (encodeWord m).length = s.k + 3 := hm ▸ encodeWord_length m
  have hc : (encodeWord m).length < 2 ^ 16 := by omega
  obtain ⟨t, ht, h⟩ := exec_bchDec_delivers
    (s := accept (encode .bchDec) (moved (complete (writeOut (encodeWord m) s)))) hv
    ((moved_len hc s).trans (hlen.trans hn.symm)) (moved_input hc s) hlen hk
  have hd : decodeWord s.k (encodeWord m) = { msg := m, branch := .clean, pos := 0 } := hm ▸ decodeWord_encodeWord m
  have hs : syndrome s.k (encodeWord m) = 0 := hm ▸ syndrome_encodeWord m
  exact ⟨t, ht, h.err, hd ▸ h.branch, hd ▸ h.corrPos, hs ▸ h.synd, hd ▸ h.message, h.outLen⟩

/-- With P = 0 no draw flips a bit (R162). -/
theorem bsc_zero {xs : Bits} {us : List Draw} (h : xs.length ≤ us.length) : bsc 0 xs us = xs := by
  apply List.ext_getElem
  · simp [bsc, h]
  · intro j _ _
    simp [bsc, bernoulli]

/-- A codeword handed over by MOVE passes a BSC with P_BSC = 0 unchanged (R162, R163). -/
theorem issue_bscTx_moved {s : State} {c : Bits} (hv : s.cfgValid = true) (hp : s.act.pBsc = 0)
    (hc : c.length < 2 ^ 16) (hb : c.length ≤ s.bufBits) (hd : c.length ≤ s.port.length) :
    ∃ u, issue .bscTx (moved (complete (writeOut c s))) = .next (complete (writeOut c u)) ∧
      u.cfgValid = s.cfgValid ∧ u.act = s.act := by
  have hlen : (accept (encode .bscTx) (moved (complete (writeOut c s)))).len = c.length := moved_len hc s
  have hrun := exec_bscTx_fits (s := accept (encode .bscTx) (moved (complete (writeOut c s)))) hv (hlen.trans_le hb)
    (hlen.trans_le (hd.trans (Nat.le_add_left _ _)))
  have hin : (accept (encode .bscTx) (moved (complete (writeOut c s)))).input = c := moved_input hc s
  have hdraws : c.length ≤ ((accept (encode .bscTx) (moved (complete (writeOut c s)))).drawn c.length).length := by
    simpa [State.drawn, State.taken, moved] using hd
  have hpz : (accept (encode .bscTx) (moved (complete (writeOut c s)))).act.pBsc = 0 := hp
  rw [hlen, hin, hpz, bsc_zero hdraws] at hrun
  exact ⟨_, hrun, rfl, rfl⟩

/-- Settles O24: MOVE hands the codeword to BCH_DEC, or to BSC_TX, which flips no bit. -/
theorem bchRoundTrip : Obligations.BchRoundTrip := by
  intro s hinv hv hl
  obtain ⟨-, hk, hn, hnb⟩ := hinv.code_bounds hv
  have hle : s.len ≤ s.bufBits := le_trans (hl.trans_le (Nat.le_add_right _ 3)) (hn ▸ hnb)
  have hm : s.input.length = s.k := (input_length hinv.mem_wf hle).trans hl
  have hbit : ∀ j < s.k, s.input.getD j false = inBit s j := fun j hj => input_getD (hj.trans_eq hl.symm)
  have henc : issue .bchEnc s = .next (complete (writeOut (encodeWord s.input) (accept (encode .bchEnc) s))) :=
    exec_bchEnc_fits hv hl
  refine ⟨?_, fun hp hd => ?_⟩
  · obtain ⟨t, ht, h⟩ := issue_bchDec_moved_codeword (s := accept (encode .bchEnc) s) hv hm hn hk
    exact ⟨_, _, t, henc, issue_move _, ht, fun j hj => (h.outBit hj).trans (hbit j hj), h.outLen, h.branch, h.synd,
      BitVec.eq_of_toNat_eq h.corrPos, h.err⟩
  · have hlen : (encodeWord s.input).length = s.act.n.toNat := (encodeWord_length _).trans (hm ▸ hn.symm)
    obtain ⟨u, hu, huv, hua⟩ := issue_bscTx_moved (s := accept (encode .bchEnc) s) (c := encodeWord s.input) hv hp
      (by omega) (hlen.trans_le hnb) (hlen.trans_le hd)
    have huk : u.k = s.k := congrArg (·.k.toNat) hua
    have hun : u.n = s.n := congrArg (·.n.toNat) hua
    obtain ⟨t, ht, h⟩ := issue_bchDec_moved_codeword (huv.trans hv) (hm.trans huk.symm) (huk ▸ hun.trans hn) (huk ▸ hk)
    exact ⟨_, _, _, _, t, henc, issue_move _, hu, issue_move _, ht,
      fun j hj => (h.outBit (huk ▸ hj)).trans (hbit j hj), h.branch, h.synd, BitVec.eq_of_toNat_eq h.corrPos⟩

end Sys2Proof.Machine
end

section
/-! What BCH_DEC does to codewords with one and with two inverted bits (spec 41_bch.md R143, R144). -/

namespace Sys2Proof.Machine

open Sys2Proof.Claims

/-! ### Which bits a chain of inversions leaves -/

theorem flipBit_flipBit_self (y : Bits) (i : Nat) : flipBit (flipBit y i) i = y := by
  by_cases h : i < y.length
  · simp [flipBit, h]
  · simp [flipBit, Nat.le_of_not_lt h, List.set_eq_of_length_le]

theorem flipBit_getD_eq_iff {y : Bits} {i h : Nat} (hi : i < y.length) :
    (flipBit y i).getD h false = y.getD h false ↔ h ≠ i := by
  rw [flipBit_getD hi]
  by_cases hh : h = i
  · simp [hh]
  · simp [hh]

/-- Two different bits inverted. -/
theorem flipBit_two_getD_eq_iff {y : Bits} {i j h : Nat} (hi : i < y.length) (hj : j < y.length) (hij : i ≠ j) :
    (flipBit (flipBit y i) j).getD h false = y.getD h false ↔ h ≠ i ∧ h ≠ j := by
  by_cases hh : h = i
  · subst hh
    rw [flipBit_getD_of_ne hij, flipBit_getD_eq_iff hi]
    simp
  · rw [← flipBit_getD_of_ne hh y, flipBit_getD_eq_iff (by simpa using hj)]
    simp [hh]

/-- Three different bits inverted. -/
theorem flipBit_three_getD_eq_iff {y : Bits} {i j l h : Nat} (hi : i < y.length) (hj : j < y.length) (hl : l < y.length)
    (hij : i ≠ j) (hli : l ≠ i) (hlj : l ≠ j) :
    (flipBit (flipBit (flipBit y i) j) l).getD h false = y.getD h false ↔ h ≠ i ∧ h ≠ j ∧ h ≠ l := by
  by_cases hh : h = i
  · subst hh
    rw [flipBit_getD_of_ne hli.symm, flipBit_two_getD_eq_iff hi hj hij]
    simp
  · rw [← flipBit_getD_of_ne hh y, flipBit_two_getD_eq_iff (by simpa using hj) (by simpa using hl) hlj.symm]
    simp [hh]

/-! ### Codewords with one and two inverted bits -/

theorem syndrome_codeword_flipBit {m : Bits} {j : Nat} (hj : j < m.length + 3) :
    syndrome m.length (flipBit (encodeWord m) j) = syndrome m.length (unitWord (m.length + 3) j) := by
  rw [syndrome_flipBit (encodeWord_length m) hj, syndrome_encodeWord]
  exact BitVec.zero_xor

theorem syndrome_codeword_flipBit_two {m : Bits} {i j : Nat} (hi : i < m.length + 3) (hj : j < m.length + 3) :
    syndrome m.length (flipBit (flipBit (encodeWord m) i) j)
      = syndrome m.length (unitWord (m.length + 3) i) ^^^ syndrome m.length (unitWord (m.length + 3) j) := by
  rw [syndrome_flipBit ((flipBit_length _ i).trans (encodeWord_length m)) hj, syndrome_codeword_flipBit hi]

/-- Two single-bit syndromes cancel exactly for congruent indices (R135). -/
theorem syndrome_unitWord_xor_eq_zero_iff {k i j : Nat} (hi : i < k + 3) (hj : j < k + 3) :
    syndrome k (unitWord (k + 3) i) ^^^ syndrome k (unitWord (k + 3) j) = 0 ↔ i % 7 = j % 7 :=
  BitVec.xor_eq_zero_iff.trans (syndrome_unitWord_eq_iff hi hj)

/-- From n = 7 on, the sum of the single-bit syndromes of two classes is that of an index of a third class (R144). -/
theorem exists_third_class {k i j : Nat} (hk : 4 ≤ k) (hi : i < k + 3) (hj : j < k + 3) (hij : i % 7 ≠ j % 7) :
    ∃ l < 7, l ≠ i ∧ l ≠ j ∧
      syndrome k (unitWord (k + 3) i) ^^^ syndrome k (unitWord (k + 3) j) = syndrome k (unitWord (k + 3) l) := by
  have hne := mt (syndrome_unitWord_xor_eq_zero_iff hi hj).mp hij
  obtain ⟨l, hl, hsum⟩ := exists_unitWord_syndrome hk hne
  refine ⟨l, hl, ?_, ?_, hsum⟩
  · rintro rfl
    have hcancel := congrArg (syndrome k (unitWord (k + 3) l) ^^^ ·) hsum
    exact syndrome_unitWord_ne_zero hj (by simpa [← BitVec.xor_assoc] using hcancel)
  · rintro rfl
    have hcancel := congrArg (· ^^^ syndrome k (unitWord (k + 3) l)) hsum
    exact syndrome_unitWord_ne_zero hi (by simpa [BitVec.xor_assoc] using hcancel)

/-- A word with a nonzero single-bit syndrome is decoded at the least index of the class (R137, R139). -/
theorem decodeWord_of_syndrome_unitWord {k i : Nat} {y : Bits} (hy : y.length = k + 3) (hi : i < k + 3)
    (hs : syndrome k y = syndrome k (unitWord (k + 3) i)) :
    decodeWord k y = { msg := (flipBit y (i % 7)).take k, branch := .corrected, pos := i % 7 } :=
  decodeWord_corrected (hs ▸ syndrome_unitWord_ne_zero hi) (search_of_syndrome_unitWord hy hi hs)

/-- OUT differs from the message when one of its bits does. -/
theorem take_ne_of_getD_ne {out m : Bits} {k h : Nat} (hh : h < k) (hne : out.getD h false ≠ m.getD h false) :
    out.take k ≠ m := fun heq => hne (by rw [← heq, take_getD hh])

/-- What BCH_DEC delivers on a state of the invariant whose IN holds the word `y` (R141). -/
theorem Invariant.exec_bchDec_delivers {s : State} {y : Bits} (hinv : Invariant s) (hv : s.cfgValid = true)
    (hl : s.len = s.n) (hin : s.mem.inBuf.take s.n = y) :
    ∃ t, exec .bchDec s = .next t ∧ Delivered s (decodeWord s.k y) (syndrome s.k y) t := by
  obtain ⟨-, hk, hn, hnb⟩ := hinv.code_bounds hv
  rw [← hl] at hin
  have hlen : s.input.length = s.k + 3 := (input_length hinv.mem_wf (hl.trans_le hnb)).trans (hl.trans hn)
  exact Machine.exec_bchDec_delivers hv hl hin (hin ▸ hlen) hk

/-- Settles O25: the word has the error's syndrome, so the decoder inverts bit j mod 7, which is bit j exactly for
j ≤ 6. -/
theorem singleErrorDecoding : Obligations.SingleErrorDecoding := by
  intro s m j hinv hv hl hm hj hin
  obtain ⟨-, -, hn, -⟩ := hinv.code_bounds hv
  obtain ⟨t, ht, h⟩ := hinv.exec_bchDec_delivers hv hl hin
  have hk : s.k = m.length := hm.symm
  have hj3 : j < m.length + 3 := by omega
  have hle : j % 7 ≤ j := Nat.mod_le j 7
  have hclen : (encodeWord m).length = m.length + 3 := encodeWord_length m
  have hs := syndrome_codeword_flipBit hj3
  rw [hk, decodeWord_of_syndrome_unitWord ((flipBit_length _ j).trans hclen) hj3 hs, hs] at h
  have hbit : ∀ i < m.length, 7 ≤ j → (outBit t i = m.getD i false ↔ i ≠ j ∧ i ≠ j % 7) := fun i hi h7 => by
    rw [h.outBit (hk ▸ hi), take_getD hi, ← encodeWord_getD_of_lt hi]
    exact flipBit_two_getD_eq_iff (by omega) (by omega) (by omega)
  rw [hn, ← hm]
  refine ⟨t, ht, h.branch, h.corrPos, h.err, h.synd ▸ syndrome_unitWord_ne_zero hj3, h.synd,
    ⟨fun hmsg => ?_, fun h6 => ?_⟩, fun h7 => ⟨by omega, ?_, fun hjk => ?_⟩⟩
  · by_contra h7
    have hlow : j % 7 < m.length := by omega
    exact take_ne_of_getD_ne hlow (fun heq => ((hbit _ hlow (by omega)).mp heq).2 rfl) hmsg
  · have hmod : j % 7 = j := by omega
    have hmsg := h.message
    rwa [hk, hmod, flipBit_flipBit_self, encodeWord_take] at hmsg
  · exact fun heq => ((hbit _ (by omega) h7).mp heq).2 rfl
  · exact fun heq => ((hbit _ hjk h7).mp heq).1 rfl

/-- Settles O26: the two single-bit syndromes cancel for congruent indices; otherwise their sum is the syndrome of a third
class, which exists from n = 7 on and whose least index is inverted too. -/
theorem doubleErrorDecoding : Obligations.DoubleErrorDecoding := by
  intro s m i j hinv hv hl hm hij hj hin
  obtain ⟨-, -, hn, -⟩ := hinv.code_bounds hv
  obtain ⟨t, ht, h⟩ := hinv.exec_bchDec_delivers hv hl hin
  have hk : s.k = m.length := hm.symm
  have hj3 : j < m.length + 3 := by omega
  have hi3 : i < m.length + 3 := by omega
  have hclen : (encodeWord m).length = m.length + 3 := encodeWord_length m
  have hylen : (flipBit (flipBit (encodeWord m) i) j).length = m.length + 3 := by simpa using hclen
  have hs := syndrome_codeword_flipBit_two hi3 hj3
  rw [hk] at h
  rw [hn, ← hm]
  refine ⟨t, ht, h.err, fun hmod => ?_, fun hmod => ?_⟩
  · have h0 : syndrome m.length (flipBit (flipBit (encodeWord m) i) j) = 0 :=
      hs.trans ((syndrome_unitWord_xor_eq_zero_iff hi3 hj3).mpr hmod)
    rw [decodeWord_clean h0, h0] at h
    refine ⟨h.branch, h.synd, fun b hb => ?_⟩
    rw [h.outBit (hk ▸ hb), take_getD hb, ← encodeWord_getD_of_lt hb]
    exact flipBit_two_getD_eq_iff (by omega) (by omega) hij.ne
  · have hne : syndrome m.length (flipBit (flipBit (encodeWord m) i) j) ≠ 0 := fun h0 =>
      hmod ((syndrome_unitWord_xor_eq_zero_iff hi3 hj3).mp (hs.symm.trans h0))
    refine ⟨h.synd ▸ hne, h.synd.trans hs, fun h7 => ?_⟩
    obtain ⟨l, hl7, hli, hlj, hsum⟩ := exists_third_class (k := m.length) (by omega) hi3 hj3 hmod
    have hsl := hs.trans hsum
    have hl3 : l < m.length + 3 := by omega
    rw [decodeWord_of_syndrome_unitWord hylen hl3 hsl, Nat.mod_eq_of_lt hl7] at h
    have hpos : t.corrPos.toNat = l := h.corrPos
    rw [hpos]
    refine ⟨h.branch, hl7, h.synd.trans hsl, hli, hlj, fun hwrong => ?_⟩
    have hbit : ∀ b < m.length, (outBit t b = m.getD b false ↔ b ≠ i ∧ b ≠ j ∧ b ≠ l) := fun b hb => by
      rw [h.outBit (hk ▸ hb), take_getD hb, ← encodeWord_getD_of_lt hb]
      exact flipBit_three_getD_eq_iff (by omega) (by omega) (by omega) hij.ne hli hlj
    obtain ⟨b, hb, heq⟩ : ∃ b < m.length, b = i ∨ b = j ∨ b = l := by
      obtain hb | hb | hb := hwrong
      · exact ⟨i, hb, .inl rfl⟩
      · exact ⟨j, hb, .inr (.inl rfl)⟩
      · exact ⟨l, hb, .inr (.inr rfl)⟩
    exact take_ne_of_getD_ne hb (fun hsame => by have := (hbit b hb).mp hsame; omega)

end Sys2Proof.Machine
end

section
/-! The Bernoulli event, the two channel loops bit by bit, what BSC_TX and GE_TX take from the draw port and deliver, and the
statements on the channel commands (spec 42_channel.md R160 to R170). -/

namespace Sys2Proof.Machine

open Sys2Proof.Claims

/-! ### The Bernoulli event (R161) -/

theorem bernoulli_eq_true_iff {p : Prob} {u : Draw} : bernoulli p u = true ↔ u.toNat < p.toNat := decide_eq_true_iff

@[simp] theorem bernoulli_zero (u : Draw) : bernoulli 0#17 u = false := decide_eq_false (Nat.not_lt_zero _)

@[simp] theorem bernoulli_probOne (u : Draw) : bernoulli 65536#17 u = true := decide_eq_true u.isLt

/-- With the probability 0 or 65536 the draw does not matter (R167). -/
theorem bernoulli_eq_of_certain {p : Prob} (h : p = 0 ∨ p = 65536) (u v : Draw) : bernoulli p u = bernoulli p v := by
  obtain rfl | rfl := h
  · exact (bernoulli_zero u).trans (bernoulli_zero v).symm
  · exact (bernoulli_probOne u).trans (bernoulli_probOne v).symm

theorem countP_range_lt {m n : Nat} (h : m ≤ n) : (List.range n).countP (fun u => decide (u < m)) = m := by
  rw [← List.Ico.zero_bot, List.countP_eq_length_filter, List.Ico.filter_lt, List.Ico.length, min_eq_right h, Nat.sub_zero]

/-! ### The binary symmetric channel (R162) -/

/-- Output bit `j` is input bit `j`, flipped by draw `j`. -/
theorem bsc_getD {p : Prob} {xs : Bits} {us : List Draw} {j : Nat} (hx : j < xs.length) (hu : j < us.length) :
    (bsc p xs us).getD j false = (xs.getD j false).xor (bernoulli p (us.getD j 0)) := by
  simp [bsc, hx, hu]

theorem bsc_eq_of_certain {p : Prob} (hp : p = 0 ∨ p = 65536) {xs : Bits} {us vs : List Draw}
    (hu : xs.length ≤ us.length) (hv : xs.length ≤ vs.length) : bsc p xs us = bsc p xs vs := by
  apply List.ext_getElem
  · rw [bsc_length, bsc_length, min_eq_left hu, min_eq_left hv]
  · intro j _ _
    simp only [bsc, List.getElem_zipWith]
    rw [bernoulli_eq_of_certain hp]

/-! ### The Gilbert-Elliott loop (R164, R165, R170) -/

/-- The regime before bit `j`, from the regime `st` and the draws `us`: draw 2j+1 decides the transition after bit `j`. -/
def regimeAt (c : CodeConfig) (st : Regime) (us : List Draw) : Nat → Regime
  | 0     => st
  | j + 1 => nextRegime c (regimeAt c st us j) (us.getD (2 * j + 1) 0)

theorem nextRegime_good (c : CodeConfig) (v : Draw) :
    nextRegime c .good v = if v.toNat < c.pG2b.toNat then .bad else .good := by
  simp [nextRegime, bernoulli_eq_true_iff]

theorem nextRegime_bad (c : CodeConfig) (v : Draw) :
    nextRegime c .bad v = if v.toNat < c.pB2g.toNat then .good else .bad := by
  simp [nextRegime, bernoulli_eq_true_iff]

/-- After the first bit the regimes go on from the regime that bit leaves, with the draws left. -/
theorem regimeAt_cons_cons (c : CodeConfig) (st : Regime) (u v : Draw) (us : List Draw) (j : Nat) :
    regimeAt c st (u :: v :: us) (j + 1) = regimeAt c (nextRegime c st v) us j := by
  induction j with
  | zero => rfl
  | succ j ih => rw [regimeAt, ih]; rfl

theorem exists_two_draws {n : Nat} {us : List Draw} (h : 2 * (n + 1) ≤ us.length) :
    ∃ u v ws, us = u :: v :: ws ∧ 2 * n ≤ ws.length := by
  match us, h with
  | [], h | [_], h => simp only [List.length_nil, List.length_cons] at h; omega
  | u :: v :: ws, h => exact ⟨u, v, ws, rfl, by simp at h; omega⟩

/-- With two draws per bit the loop ends in the regime after the last bit, and draw 2j flips bit `j` with the probability of
the regime before it. -/
theorem geRun_eq_regimeAt (c : CodeConfig) (st : Regime) (xs : Bits) (us : List Draw) (h : 2 * xs.length ≤ us.length) :
    (geRun c st xs us).2 = regimeAt c st us xs.length ∧
    ∀ j < xs.length, (geRun c st xs us).1.getD j false
      = (xs.getD j false).xor (bernoulli (flipProb c (regimeAt c st us j)) (us.getD (2 * j) 0)) := by
  induction xs generalizing st us with
  | nil => simp [regimeAt]
  | cons b bs ih =>
    obtain ⟨u, v, ws, rfl, hws⟩ := exists_two_draws h
    obtain ⟨hend, hbits⟩ := ih (nextRegime c st v) ws hws
    rw [geRun_cons]
    refine ⟨hend.trans (regimeAt_cons_cons c st u v ws bs.length).symm, fun j hj => ?_⟩
    cases j with
    | zero => rfl
    | succ j =>
      rw [regimeAt_cons_cons]
      exact hbits j (Nat.lt_of_succ_lt_succ hj)

/-- Every probability of the Gilbert-Elliott channel is 0 or 65536 (R167). -/
structure CertainGe (c : CodeConfig) : Prop where
  good : c.pGood = 0 ∨ c.pGood = 65536
  bad  : c.pBad = 0 ∨ c.pBad = 65536
  g2b  : c.pG2b = 0 ∨ c.pG2b = 65536
  b2g  : c.pB2g = 0 ∨ c.pB2g = 65536

theorem CertainGe.geStep_eq {c : CodeConfig} (h : CertainGe c) (st : Regime) (b : Bool) (u v u' v' : Draw) :
    geStep c st b u v = geStep c st b u' v' := by
  cases st with
  | good => simp only [geStep, flipProb, nextRegime, bernoulli_eq_of_certain h.good u u', bernoulli_eq_of_certain h.g2b v v']
  | bad => simp only [geStep, flipProb, nextRegime, bernoulli_eq_of_certain h.bad u u', bernoulli_eq_of_certain h.b2g v v']

theorem CertainGe.geRun_eq {c : CodeConfig} (h : CertainGe c) (st : Regime) {xs : Bits} {us vs : List Draw}
    (hu : 2 * xs.length ≤ us.length) (hv : 2 * xs.length ≤ vs.length) : geRun c st xs us = geRun c st xs vs := by
  induction xs generalizing st us vs with
  | nil => rw [geRun_nil, geRun_nil]
  | cons b bs ih =>
    obtain ⟨u, v, us, rfl, hus⟩ := exists_two_draws hu
    obtain ⟨u', v', vs, rfl, hvs⟩ := exists_two_draws hv
    rw [geRun_cons, geRun_cons, h.geStep_eq st b u v u' v', ih _ hus hvs]

/-- Without transitions from Good the regime stays Good (R168). -/
theorem regimeAt_good_of_hold {c : CodeConfig} (hg : c.pG2b = 0) (us : List Draw) (j : Nat) :
    regimeAt c .good us j = .good := by
  induction j with
  | zero => rfl
  | succ j ih => simp [regimeAt, ih, nextRegime, hg]

/-- With a certain transition to Bad and none back, every bit after the first is sent in Bad (R167). -/
theorem regimeAt_bad_of_burst {c : CodeConfig} (hg : c.pG2b = 65536) (hb : c.pB2g = 0) (us : List Draw) {j : Nat}
    (hj : 1 ≤ j) : regimeAt c .good us j = .bad := by
  induction j, hj using Nat.le_induction with
  | base => simp [regimeAt, nextRegime, hg]
  | succ j _ ih => simp [regimeAt, ih, nextRegime, hb]

/-! ### The two commands past their checks (R160, R163, R170) -/

theorem drawn_length {s : State} {n : Nat} (h : n ≤ (drawsOf s).length) : (s.drawn n).length = n :=
  List.length_take_of_le h

/-- The draws handed to a command are the first of those taken and supplied. -/
theorem drawn_getD {s : State} {n j : Nat} (h : j < n) : (s.drawn n).getD j 0 = (drawsOf s).getD j 0 := by
  simp [State.drawn, h]

/-- A data command that writes `xs` to OUT and completes delivers it, padded with zeros (R41, R182). -/
theorem complete_writeOut {xs : Bits} {len : Nat} (h : xs.length = len) (s : State) :
    complete (writeOut xs s) = delivers (padTo s.bufBits xs) len s := by
  subst h; rfl

/-- What BSC_TX computes from its input sequence and its draws (R163). -/
def State.bscResult (s : State) : Bits := bsc s.act.pBsc s.input (s.drawn s.len)

/-- What GE_TX computes from its input sequence, GE_STATE and its draws: the output and the last regime (R170). -/
def State.geResult (s : State) : Bits × Regime := geRun s.act s.geState s.input (s.drawn (2 * s.len))

/-- The regime in which GE_TX sends bit `j` (R164). -/
def State.geRegime (s : State) (j : Nat) : Regime := regimeAt s.act s.geState (s.drawn (2 * s.len)) j

theorem Invariant.bscResult_length {s : State} (hinv : Invariant s) (hl : s.len ≤ s.bufBits)
    (hd : s.len ≤ (drawsOf s).length) : s.bscResult.length = s.len := by
  rw [State.bscResult, bsc_length, input_length hinv.mem_wf hl, drawn_length hd, min_self]

/-- OUT[j] is IN[j], flipped by draw `j` with the probability A_PBSC (R163). -/
theorem Invariant.bscResult_getD {s : State} (hinv : Invariant s) (hl : s.len ≤ s.bufBits)
    (hd : s.len ≤ (drawsOf s).length) {j : Nat} (hj : j < s.len) :
    (padTo s.bufBits s.bscResult).getD j false = (inBit s j).xor (bernoulli s.act.pBsc ((drawsOf s).getD j 0)) := by
  have hin : j < s.input.length := hj.trans_eq (input_length hinv.mem_wf hl).symm
  have hdraw : j < (s.drawn s.len).length := hj.trans_eq (drawn_length hd).symm
  rw [padTo_getD_of_lt (hj.trans_eq (hinv.bscResult_length hl hd).symm), State.bscResult, bsc_getD hin hdraw,
    input_getD hj, drawn_getD hj]

/-- BSC_TX with its draws delivers the output of the channel (R163). -/
theorem Invariant.exec_bscTx_delivers {s : State} (hinv : Invariant s) (hv : s.cfgValid = true) (hl : s.len ≤ s.bufBits)
    (hd : s.len ≤ (drawsOf s).length) :
    exec .bscTx s = .next (delivers (padTo s.bufBits s.bscResult) s.len (s.afterDraws s.len)) :=
  (exec_bscTx_fits hv hl (List.length_append ▸ hd)).trans
    (congrArg _ (complete_writeOut (hinv.bscResult_length hl hd) (s.afterDraws s.len)))

/-- GE_TX gets two draws for each bit of its input sequence (R165). -/
theorem Invariant.two_draws_per_bit {s : State} (hinv : Invariant s) (hl : s.len ≤ s.bufBits)
    (hd : 2 * s.len ≤ (drawsOf s).length) : 2 * s.input.length ≤ (s.drawn (2 * s.len)).length := by
  rw [input_length hinv.mem_wf hl, drawn_length hd]

theorem Invariant.geResult_length {s : State} (hinv : Invariant s) (hl : s.len ≤ s.bufBits)
    (hd : 2 * s.len ≤ (drawsOf s).length) : s.geResult.1.length = s.len :=
  (geRun_length _ _ _ _ (hinv.two_draws_per_bit hl hd)).trans (input_length hinv.mem_wf hl)

/-- OUT[j] is IN[j], flipped by draw 2j with the probability of the regime before the transition (R164). -/
theorem Invariant.geResult_getD {s : State} (hinv : Invariant s) (hl : s.len ≤ s.bufBits)
    (hd : 2 * s.len ≤ (drawsOf s).length) {j : Nat} (hj : j < s.len) :
    (padTo s.bufBits s.geResult.1).getD j false
      = (inBit s j).xor (bernoulli (flipProb s.act (s.geRegime j)) ((drawsOf s).getD (2 * j) 0)) := by
  obtain ⟨-, hbits⟩ := geRun_eq_regimeAt s.act s.geState _ _ (hinv.two_draws_per_bit hl hd)
  rw [padTo_getD_of_lt (hj.trans_eq (hinv.geResult_length hl hd).symm), State.geResult,
    hbits j (hj.trans_eq (input_length hinv.mem_wf hl).symm), input_getD hj, drawn_getD (by omega), State.geRegime]

theorem geRegime_succ {s : State} {j : Nat} (hj : j < s.len) :
    s.geRegime (j + 1) = nextRegime s.act (s.geRegime j) ((drawsOf s).getD (2 * j + 1) 0) := by
  rw [← drawn_getD (n := 2 * s.len) (by omega)]
  rfl

/-- GE_TX with its draws delivers the output of the loop and stores the last regime (R170). -/
theorem Invariant.exec_geTx_delivers {s : State} (hinv : Invariant s) (hv : s.cfgValid = true) (hl : s.len ≤ s.bufBits)
    (hd : 2 * s.len ≤ (drawsOf s).length) :
    exec .geTx s = .next { delivers (padTo s.bufBits s.geResult.1) s.len (s.afterDraws (2 * s.len)) with
      geState := s.geRegime s.len } := by
  obtain ⟨hend, -⟩ := geRun_eq_regimeAt s.act s.geState _ _ (hinv.two_draws_per_bit hl hd)
  rw [input_length hinv.mem_wf hl] at hend
  rw [State.geRegime, ← hend]
  exact (exec_of_runs (.geTx hv (decide_eq_true hl) (List.length_append ▸ hd))).trans
    (congrArg _ (complete_writeOut (hinv.geResult_length hl hd)
      { s.afterDraws (2 * s.len) with geState := s.geResult.2 }))

/-! ### The statements -/

/-- Settles O32: the event is a comparison, so it counts the draws below P. -/
theorem bernoulliEvent : Obligations.BernoulliEvent := by
  refine ⟨fun _ _ => bernoulli_eq_true_iff, bernoulli_zero, bernoulli_probOne, fun p hp => ?_⟩
  refine (List.countP_congr fun u hu => ?_).trans (countP_range_lt hp)
  have h16 : u % 2 ^ 16 = u := Nat.mod_eq_of_lt (List.mem_range.mp hu)
  rw [bernoulli_eq_true_iff, BitVec.toNat_ofNat, h16, decide_eq_true_iff]

/-- Settles O33: the two errors, and the output of `bsc` bit by bit. -/
theorem bscTxResult : Obligations.BscTxResult := by
  intro s hinv
  refine ⟨exec_data_notConfigured rfl, fun hv hlong => ?_, fun hv hl hd => ?_⟩
  · exact exec_data_badLength rfl hv (decide_eq_false (Nat.not_le.mpr hlong))
  · have hlen := hinv.bscResult_length hl hd
    exact ⟨_, hinv.exec_bscTx_delivers hv hl hd, padTo_length_of_le (hlen.trans_le hl),
      fun j hj => hinv.bscResult_getD hl hd hj, fun j hj => padTo_getD_of_le (hlen.trans_le hj)⟩

/-- Settles O34: the two errors, and the loop bit by bit with the regimes of `regimeAt`. -/
theorem geTxResult : Obligations.GeTxResult := by
  intro s hinv
  refine ⟨exec_data_notConfigured rfl, fun hv hlong => ?_, fun hv hl hd => ?_⟩
  · exact exec_data_badLength rfl hv (decide_eq_false (Nat.not_le.mpr hlong))
  · have hlen := hinv.geResult_length hl hd
    refine ⟨_, s.geRegime, hinv.exec_geTx_delivers hv hl hd, padTo_length_of_le (hlen.trans_le hl), rfl, fun j hj => ?_,
      fun j hj => padTo_getD_of_le (hlen.trans_le hj)⟩
    have hbit := hinv.geResult_getD hl hd hj
    have hnext := geRegime_succ hj
    refine ⟨fun hst => ?_, fun hst => ?_⟩ <;> rw [hst] at hbit hnext
    · exact ⟨hbit, hnext.trans (nextRegime_good _ _)⟩
    · exact ⟨hbit, hnext.trans (nextRegime_bad _ _)⟩

/-- Settles O35: certain events ignore the draws; in the burst example the regime is Bad from bit 1 on. -/
theorem drawIndependentSettings : Obligations.DrawIndependentSettings := by
  refine ⟨fun p xs us vs hp => bsc_eq_of_certain hp, fun c st xs us vs hg hb hg2b hb2g =>
    CertainGe.geRun_eq ⟨hg, hb, hg2b, hb2g⟩ st, fun s hinv hv hl hd hg hb hg2b hb2g hst h1 => ?_⟩
  have hbad : ∀ j, 1 ≤ j → s.geRegime j = .bad := fun j hj => by
    rw [State.geRegime, hst]; exact regimeAt_bad_of_burst hg2b hb2g _ hj
  refine ⟨_, hinv.exec_geTx_delivers hv hl hd, hbad _ h1, ?_, fun j hj hjl => ?_⟩
  · refine (hinv.geResult_getD hl hd h1).trans ?_
    simp [State.geRegime, regimeAt, hst, flipProb, hg]
  · refine (hinv.geResult_getD hl hd hjl).trans ?_
    simp [hbad j hj, flipProb, hb]

/-- Settles O36: the regime stays Good, where the flip probability is 0. -/
theorem stateHold : Obligations.StateHold := by
  intro s hinv hv hl hd hg _ hg2b _ hst
  have hgood : ∀ j, s.geRegime j = .good := fun j => by
    rw [State.geRegime, hst]; exact regimeAt_good_of_hold hg2b _ j
  refine ⟨_, hinv.exec_geTx_delivers hv hl hd, hgood _, fun j hj => (hinv.geResult_getD hl hd hj).trans ?_⟩
  simp [hgood, flipProb, hg]

/-- Settles O11: only BSC_TX and GE_TX need draws, and `Runs.waits` is what they do without enough of them. -/
theorem starvedChannelCommandWaits : Obligations.StarvedChannelCommandWaits := by
  intro i s f hf hv hl hfew
  have htaken : s.taken = f.taken := by rw [State.taken, hf]
  have hwaits : { s.setTaken (s.taken ++ s.port) with port := [] }
      = { s with inflight := some { f with taken := f.taken ++ s.port }, port := [] } := by
    rw [State.setTaken, htaken, hf]; rfl
  rw [← hwaits]
  rw [← htaken] at hfew
  cases i with
  | bscTx | geTx => exact exec_of_runs (.waits rfl hv (decide_eq_true hl) hfew)
  | nop | config | chReset | move | bchEnc | bchDec | repEnc | repDec => exact absurd hfew (Nat.not_lt_zero _)

/-- Settles O12: of the ways a command can end, only the two channel commands' success moves the port. -/
theorem drawsTakenExactly : Obligations.DrawsTakenExactly := by
  intro i s t hb htaken h hidle
  have hzero : s.taken.length = 0 := by rw [htaken]; rfl
  cases runs_of_exec h with
  | waits =>
    have hbusy : (s.setTaken (s.taken ++ s.port)).busy = false := hidle
    exact absurd (hb.symm.trans ((setTaken_busy s _).symm.trans hbusy)) (by decide)
  | bscTx | geTx =>
    simp only [complete_port, writeOut_port, State.afterDraws, hzero]
    rfl
  | nop | configured | misconfigured | chReset | move | notConfigured | badLength | bchEnc | bchDec | repEnc | repDec =>
    rfl

end Sys2Proof.Machine
end

section
/-! The step as the scheduled agent's move, the host's line as a performed access, the ways a command ends, and the statements
on steps, on acceptance and completion, and on the control commands (spec 43_control.md). -/

namespace Sys2Proof.Machine

open Sys2Proof.Claims

/-! ### A step is the scheduled move (R180, R183) -/

theorem step_of_sched {s : State} {m : Move} {ms : List Move} (h : s.sched = m :: ms) :
    step s = agentMove m { s with sched := ms } := by
  simp only [step, scheduledMove, h]

theorem step_of_sched_nil {s : State} (h : s.sched = []) : step s = defaultMove s := by
  simp only [step, scheduledMove, h]

theorem seqMove_idle {s : State} (h : s.inflight = none) : seqMove s = .next s := by
  simp only [seqMove, h]

/-- The sequencer runs the command that the word in flight spells (R183). -/
theorem seqMove_instr {s : State} {f : InFlight} {i : Instr} (hf : s.inflight = some f) (hd : decode f.word = .instr i) :
    seqMove s = exec i s := by
  simp only [seqMove, hf, hd]

/-- A word that spells no command ends with ILLEGAL_CMD (R201). -/
theorem seqMove_illegal {s : State} {f : InFlight} {e : DecodeError} (hf : s.inflight = some f)
    (hd : decode f.word = .illegal e) : seqMove s = .next (endsWith .illegalCmd s) := by
  simp only [seqMove, hf, hd]
  rfl

theorem hostWithSeq_of_busy {s t : State} (hb : s.busy = true) (h : hostMove s = .next t) : hostWithSeq s = seqMove t := by
  simp only [hostWithSeq, hb, h, if_true]

theorem hostWithSeq_of_idle {s : State} (hb : s.busy = false) : hostWithSeq s = hostMove s :=
  if_neg (Bool.eq_false_iff.mp hb)

theorem decode_encode (i : Instr) : decode (encode i) = .instr i := by
  cases i <;> rfl

theorem tableWord_toNat (w : Word) : tableWord 32 w.toNat = w := by
  rw [tableWord, Nat.mod_eq_of_lt w.isLt, BitVec.ofNat_toNat, BitVec.setWidth_eq]

/-! ### The host's line (R60, R70, R96, R97) -/

theorem busAccess_reads (s : State) (a : BusAccess) : (busAccess s a).reads = s.reads := by
  unfold busAccess
  split
  · cases a with
    | read b off => simp only [afterRead]; split <;> rfl
    | write b off v => simp only [writeLoc]; split <;> [rfl; (cases locate s.bufBits off <;> rfl)]
  · rfl

theorem eq_setReads {s : State} {rs : List Word} (h : s.reads = rs) : s = { s with reads := rs } := by
  subst h; rfl

/-- Every access is answered, legal or not (R60, R66). -/
theorem busAccess_answered (s : State) (a : BusAccess) : ∃ r, (busAccess s a).resp = some r := by
  unfold busAccess
  split
  · cases a <;> exact ⟨_, rfl⟩
  · exact ⟨_, rfl⟩

/-- An access line performs its access and keeps the value of a read (R96). -/
theorem hostLine_access_performs (s : State) (a : BusAccess) (rest : List HostLine) :
    performs { s with host := rest } a (hostLine s (.access a) rest) := by
  obtain ⟨r, hr⟩ := busAccess_answered { s with host := rest } a
  have hreads := busAccess_reads { s with host := rest } a
  refine ⟨r, hr, ?_⟩
  cases a with
  | read b off => simp only [hostLine, keepRead, State.respData, hr, hreads]
  | write b off v => exact eq_setReads hreads

/-- The host's move performs the access of its next line (R70). -/
theorem hostMove_performs {s : State} {a : BusAccess} {rest : List HostLine} (hr : s.rstPin = false)
    (hh : s.host = .access a :: rest) : ∃ t, hostMove s = .next t ∧ performs { s with host := rest } a t :=
  ⟨_, hostMove_cons hh hr, hostLine_access_performs s a rest⟩

/-- In the same-cycle move the access leaves the running command in flight (R240), and the sequencer runs it in the state
after the access (R211). -/
theorem hostWithSeq_performs {s : State} {f : InFlight} {i : Instr} {a : BusAccess} {rest : List HostLine}
    (hf : s.inflight = some f) (hd : decode f.word = .instr i) (hr : s.rstPin = false) (hh : s.host = .access a :: rest) :
    ∃ t, performs { s with host := rest } a t ∧ hostWithSeq s = exec i t := by
  have hb : s.busy = true := busy_eq_true.mpr ⟨f, hf⟩
  obtain ⟨t, ht, hperf⟩ := hostMove_performs hr hh
  have hft : t.inflight = some f := (hostMove_busy ht hb).inflight.trans hf
  exact ⟨t, hperf, (hostWithSeq_of_busy hb ht).trans (seqMove_instr hft hd)⟩

/-- `wait` reads STATUS and goes on exactly when BUSY is 0 (R97). -/
theorem hostMove_wait {s : State} {rest : List HostLine} (hr : s.rstPin = false) (hh : s.host = .wait :: rest) :
    hostMove s = .next { busAccess s statusRead with host := if s.busy then .wait :: rest else rest } := by
  rw [hostMove_cons hh hr, hostLine]
  have hhost : (busAccess s statusRead).host = .wait :: rest := (busAccess_host s statusRead).trans hh
  cases s.busy
  · rfl
  · simp only [if_true, ← hhost]

/-- The wait for IRQ goes on exactly when IRQ is 1, in reset or not (log entry 19). -/
theorem hostMove_waitIrq {s : State} {rest : List HostLine} (hh : s.host = .waitIrq :: rest) :
    hostMove s = .next { s with host := if s.irq then rest else .waitIrq :: rest } := by
  simp only [hostMove, hh, HostLine.onBus, Bool.and_false, Bool.false_eq_true, if_false, hostLine]
  cases s.irq
  · simp only [Bool.false_eq_true, if_false, ← hh]
  · rfl

theorem hostMove_nil {s : State} (hh : s.host = []) : hostMove s = .next s := by
  simp only [hostMove, hh]

/-! ### How a command ends (R182, R189) -/

/-- A command that answers with an error has only ended with it; CONFIG has cleared CFG_VALID too (R189). -/
theorem Runs.of_err {i : Instr} {s t : State} (h : Runs i s t) (hs : s.err = .none) (ht : t.err ≠ .none) :
    t = endsWith t.err { s with cfgValid := if i = .config then false else s.cfgValid } := by
  cases h with
  | misconfigured => rfl
  | notConfigured data | badLength data =>
    rw [if_neg fun hi => by cases hi; cases data]
    rfl
  | waits => exact absurd hs ht
  | nop | configured | chReset | move | bchEnc | bchDec | repEnc | repDec | bscTx | geTx => exact absurd rfl ht

/-- A command that does not have to wait for draws is completed (R182). -/
theorem Runs.completes {i : Instr} {s t : State} (h : Runs i s t)
    (hd : drawsNeeded i s.len ≤ s.taken.length + s.port.length) : t.busy = false ∧ t.done = true := by
  cases h with
  | waits _ _ _ few => exact absurd few (Nat.not_lt.mpr hd)
  | _ => exact ⟨rfl, rfl⟩

theorem exec_config_legal {s : State} (h : configLegal s.cfg) :
    exec .config s = .next (endsWith .none { s with act := s.cfg, cfgValid := true, geState := .good }) :=
  exec_of_runs (.configured (legalConfig_iff.mpr h))

theorem exec_config_illegal {s : State} (h : ¬ configLegal s.cfg) :
    exec .config s = .next (endsWith .config { s with cfgValid := false }) :=
  exec_of_runs (.misconfigured (Bool.eq_false_iff.mpr (mt legalConfig_iff.mp h)))

/-! ### The statements -/

/-- Settles O9: of the ways a command can end, only the errors leave ERR other than NONE; an illegal word is the sequencer's
own error. -/
theorem errorChangesNothingElse : Obligations.ErrorChangesNothingElse :=
  ⟨fun _ _ _ hs h ht => (runs_of_exec h).of_err hs ht, fun _ _ _ hf hd => seqMove_illegal hf hd⟩

/-- Settles O4, clause by clause: the sequencer's moves, then the host's lines, then a draw. -/
theorem stepRunsDecodedCommand : Obligations.StepRunsDecodedCommand := by
  intro s ms
  refine ⟨fun f i hf hd => ⟨fun hs => ?_, fun hs => ?_, fun a rest hs hr hh => ?_⟩, fun hs hf => ?_,
    fun a rest hr hh => ⟨fun hs => ?_, fun hs hb => ?_⟩, fun rest hr hs hh => ?_, fun rest hs hh => ?_, fun hs hh => ?_,
    fun u hs => step_of_sched hs⟩
  · have hb : s.busy = true := busy_eq_true.mpr ⟨f, hf⟩
    rw [step_of_sched_nil hs, defaultMove, if_pos hb, seqMove_instr hf hd]
  · rw [step_of_sched hs]
    exact seqMove_instr (s := { s with sched := ms }) hf hd
  · rw [step_of_sched hs]
    exact hostWithSeq_performs (s := { s with sched := ms }) hf hd hr hh
  · exact (step_of_sched hs).trans (seqMove_idle (s := { s with sched := ms }) hf)
  · have hstep : step s = hostMove { s with sched := ms } := by
      obtain hs | ⟨hs, hb⟩ := hs
      · exact step_of_sched hs
      · exact (step_of_sched hs).trans (hostWithSeq_of_idle hb)
    rw [hstep]
    exact hostMove_performs (s := { s with sched := ms }) hr hh
  · rw [step_of_sched_nil hs, defaultMove, if_neg (Bool.eq_false_iff.mp hb)]
    exact hostMove_performs hr hh
  · exact (step_of_sched hs).trans (hostMove_wait (s := { s with sched := ms }) hr hh)
  · exact (step_of_sched hs).trans (hostMove_waitIrq (s := { s with sched := ms }) hh)
  · exact (step_of_sched hs).trans (hostMove_nil (s := { s with sched := ms }) hh)

/-- Settles O5: the schedule names the sequencer, and the word in flight decodes to its command. -/
theorem fetchWordRunsInNextStep : Obligations.FetchWordRunsInNextStep := by
  intro s i
  rw [State.withFetchWord, tableWord_toNat, step_of_sched (ms := s.sched) rfl]
  exact seqMove_instr (s := accept (encode i) { s with rstPin := false }) rfl (decode_encode i)

/-- Settles O7: CMD takes a write while idle and drops it while busy. -/
theorem commandAcceptance : Obligations.CommandAcceptance := fun _ w =>
  ⟨busAccess_write_idle w (l := .cmd) rfl rfl, fun hb => busAccess_write_dropped w (l := .cmd) rfl rfl hb rfl⟩

/-- Settles O8: every command answers a next state, and with its draws supplied it does not wait. -/
theorem everyCommandCompletes : Obligations.EveryCommandCompletes := by
  intro i s hd
  obtain ⟨t, ht, -⟩ := exec_next i s
  exact ⟨t, ht, (runs_of_exec ht).completes hd⟩

/-- Settles O13: NOP's one way to end, in any state and after acceptance. -/
theorem nopCompletes : Obligations.NopCompletes := fun _ =>
  ⟨exec_of_runs .nop, exec_of_runs .nop⟩

/-- Settles O14: CONFIG's two ways to end, and CONFIG as the only writer of CFG_VALID. -/
theorem configLatchesLegalConfiguration : Obligations.ConfigLatchesLegalConfiguration := by
  refine ⟨fun s => ⟨exec_config_legal, exec_config_illegal, fun h => ?_⟩, fun i s t h hs ht => ?_⟩
  · exact exec_config_legal (s := accept (encode .config) s) h
  · refine (runs_of_exec h).cfgValid_writer.resolve_left fun hv => ?_
    exact absurd (ht.symm.trans (hv.trans hs)) (by decide)

/-- Settles O15: CH_RESET's one way to end. -/
theorem chResetSetsGood : Obligations.ChResetSetsGood := fun _ => exec_of_runs .chReset

/-- Settles O16: MOVE's one way to end; the state after it already has IN = OUT and IN_LEN = OUT_LEN. -/
theorem moveCopiesOutToIn : Obligations.MoveCopiesOutToIn := by
  refine fun s => ⟨exec_of_runs .move, fun t ht => ?_⟩
  cases ht
  exact exec_of_runs .move

end Sys2Proof.Machine
end

section
/-! The error code that a completed command or an illegal word reports (spec 60_exceptions.md R200 to R206). -/

namespace Sys2Proof.Machine

open Sys2Proof.Claims

/-- The length check fails exactly when the column "LENGTH when" of R203 says so. -/
theorem lengthFits_eq_false_iff {i : Instr} {s : State} : lengthFits i s = false ↔ lengthUnfit i s := by
  cases i with
  | bchEnc | bchDec => exact decide_eq_false_iff_not
  | repEnc => exact lengthFits_repEnc_eq_false
  | repDec | bscTx | geTx => exact decide_eq_false_iff_not.trans Nat.not_le
  | nop | config | chReset | move => exact iff_of_false Bool.noConfusion id

/-- A command other than CONFIG that passes its checks, if it has any, completes without error (R200, R206). -/
theorem Runs.err_none_of_checked {i : Instr} {s t : State} (h : Runs i s t) (hc : i ≠ .config)
    (hchecked : isData i = true → s.cfgValid = true ∧ lengthFits i s = true) (hb : s.busy = true)
    (hidle : t.busy = false) : t.err = .none := by
  cases h with
  | misconfigured => exact absurd rfl hc
  | notConfigured data invalid => exact absurd (invalid.symm.trans (hchecked data).1) (by decide)
  | badLength data _ unfit => exact absurd (unfit.symm.trans (hchecked data).2) (by decide)
  | waits =>
    have hbusy : (s.setTaken (s.taken ++ s.port)).busy = false := hidle
    simp [hb] at hbusy
  | nop | configured | chReset | move | bchEnc | bchDec | repEnc | repDec | bscTx | geTx => rfl

/-! ### The statements -/

/-- Settles O10: each error clause names the command's one way to end; every other command has passed its checks. -/
theorem errCodeOfCompletedCommand : Obligations.ErrCodeOfCompletedCommand := by
  intro i s t hb h hidle
  refine ⟨fun hi hv => ?_, fun hi hv hl => ?_, fun hi hv hl => ?_, ?_, ?_, fun hi => ?_⟩
  · cases h.symm.trans (exec_data_notConfigured hi hv); rfl
  · cases h.symm.trans (exec_data_badLength hi hv (lengthFits_eq_false_iff.mpr hl)); rfl
  · have hfits : lengthFits i s = true := Bool.not_eq_false _ |>.mp (mt lengthFits_eq_false_iff.mp hl)
    exact (runs_of_exec h).err_none_of_checked (by rintro rfl; cases hi) (fun _ => ⟨hv, hfits⟩) hb hidle
  · rintro rfl hl
    cases h.symm.trans (exec_config_illegal hl)
    exact ⟨rfl, rfl⟩
  · rintro rfl hl
    cases h.symm.trans (exec_config_legal hl)
    rfl
  · obtain rfl | rfl | rfl := hi <;>
      exact (runs_of_exec h).err_none_of_checked (by decide) (fun hd => by cases hd) hb hidle

/-- Settles O6: a word with RSV not 0 or OPC above 9 decodes as illegal, whatever CFG_VALID is. -/
theorem illegalWordCompletesWithIllegalCmd : Obligations.IllegalWordCompletesWithIllegalCmd := by
  intro s f ms hf hs hw
  obtain ⟨-, hillegal, -⟩ := decodeTotalAndUnambiguous f.word
  obtain ⟨e, he⟩ := hillegal.mpr fun ⟨hrsv, hopc⟩ => hw.elim (absurd hrsv) fun h => by omega
  exact (step_of_sched hs).trans (seqMove_illegal (s := { s with sched := ms }) hf he)

end Sys2Proof.Machine
end

section
/-! Reset, the one stop of the machine, accesses to a running command and the host's duties, and the statements on them
(spec 70_reset_and_hazards.md). -/

namespace Sys2Proof.Machine

open Sys2Proof.Claims

/-! ### Reads of a running command (R242) -/

/-- A read that R242 leaves free answers with the next free value, and only the model's counter moves (log entries 9, 10). -/
theorem busAccess_read_free {s : State} {off : Offset} {l : Loc} (ha : off.toNat % 4 = 0)
    (hl : locate s.bufBits off = l) (hb : s.busy = true) (hf : l.freeWhileBusy = true) (hne : l ≠ .status) :
    busAccess s (.read 32 off)
      = { s with resp := some { error := false, data := Config.freeRead s.free }, free := s.free + 1 } := by
  rw [busAccess_read ha, hl]
  simp [afterRead, readValue, hb, hf, hne]

/-- A location that R242 never leaves free answers with its value, busy or not. -/
theorem resp_of_read_defined {s : State} {off : Offset} {l : Loc} (ha : off.toNat % 4 = 0)
    (hl : locate s.bufBits off = l) (hf : l.freeWhileBusy = false) :
    (busAccess s (.read 32 off)).resp = some { error := false, data := readLoc s l } :=
  congrArg State.resp (busAccess_read_defined ha hl (by rw [hf, Bool.and_false]))

/-- A read of STATUS while BUSY = 1 (R242). -/
theorem busAccess_readStatus_busy {s : State} (hb : s.busy = true) :
    busAccess s (.read 32 0x004) = { s with
      resp := some { error := false, data := s.statusWhileBusy (Config.freeRead s.free) }, free := s.free + 1 } := by
  have hloc : locate s.bufBits (0x004 : Offset) = .status := rfl
  rw [busAccess_read (by decide), hloc]
  simp [afterRead, readValue, hb, Loc.freeWhileBusy]

theorem statusFreeMask_getLsbD (i : Nat) : statusFreeMask.getLsbD i = decide (5 ≤ i ∧ i < 10) := by
  by_cases hi : i < 32
  · interval_cases i <;> rfl
  · rw [BitVec.getLsbD_of_ge _ _ (by omega), decide_eq_false (by omega)]

/-- While BUSY = 1 bits [9:5] of STATUS are the free value's, and the others are their fields (R242). -/
theorem statusWhileBusy_getLsbD (s : State) (f : Word) (i : Nat) :
    (s.statusWhileBusy f).getLsbD i = if 5 ≤ i ∧ i < 10 then f.getLsbD i else s.statusWord.getLsbD i := by
  simp only [State.statusWhileBusy, BitVec.getLsbD_or, BitVec.getLsbD_and, BitVec.getLsbD_not, statusFreeMask_getLsbD]
  by_cases hm : 5 ≤ i ∧ i < 10
  · simp [hm]
  · simpa [hm] using BitVec.lt_of_getLsbD

/-- A field of STATUS outside bits [9:5] reads its value while BUSY = 1. -/
theorem statusWhileBusy_field (s : State) (f : Word) {start len : Nat} (h : start + len ≤ 5 ∨ 10 ≤ start) :
    (s.statusWhileBusy f).extractLsb' start len = s.statusWord.extractLsb' start len := by
  ext i hi
  rw [BitVec.getElem_extractLsb', BitVec.getElem_extractLsb', statusWhileBusy_getLsbD, if_neg (by omega)]

/-- Bits [9:5] of STATUS read free values while BUSY = 1. -/
theorem statusWhileBusy_freeBits (s : State) (f : Word) :
    (s.statusWhileBusy f).extractLsb' 5 5 = f.extractLsb' 5 5 := by
  ext i hi
  rw [BitVec.getElem_extractLsb', BitVec.getElem_extractLsb', statusWhileBusy_getLsbD, if_pos (by omega)]

/-! ### The one stop of the machine (R230, U8) -/

/-- The host's next line is a bus access and the reset input is asserted. -/
def State.accessesInReset (s : State) : Bool := s.rstPin && s.host.head?.any HostLine.onBus

theorem State.accessesInReset_iff {s : State} :
    s.accessesInReset = true ↔ s.rstPin = true ∧ ∃ l rest, s.host = l :: rest ∧ l.onBus = true := by
  cases hh : s.host <;> simp [State.accessesInReset, hh]

theorem hostMoves_iff {s : State} :
    hostMoves s = true ↔
      s.sched.head? = some .host ∨ s.sched.head? = some .hostWithSeq ∨ (s.sched = [] ∧ s.busy = false) := by
  unfold hostMoves
  cases s.sched with
  | nil => simp
  | cons m ms => cases m <;> simp

/-- The outcome `r` is the fault when `c` holds, and a next state otherwise. -/
def FaultsExactlyIf (c : Bool) (r : Result) : Prop :=
  (c = true ∧ r = .fault .accessInReset) ∨ (c = false ∧ ∃ t, r = .next t)

theorem FaultsExactlyIf.ne_refused {c : Bool} {r : Result} (h : FaultsExactlyIf c r) (q : Refusal) : r ≠ .refused q := by
  obtain ⟨-, rfl⟩ | ⟨-, t, rfl⟩ := h <;> exact nofun

theorem FaultsExactlyIf.eq_fault_iff {c : Bool} {r : Result} (h : FaultsExactlyIf c r) (f : Fault) :
    r = .fault f ↔ c = true := by
  cases f
  obtain ⟨rfl, rfl⟩ | ⟨rfl, t, rfl⟩ := h <;> simp

theorem hostMove_faultsExactlyIf (s : State) : FaultsExactlyIf s.accessesInReset (hostMove s) := by
  cases hh : s.host with
  | nil => exact .inr ⟨by simp [State.accessesInReset, hh], s, hostMove_nil hh⟩
  | cons l rest =>
    have hc : s.accessesInReset = (s.rstPin && l.onBus) := by simp [State.accessesInReset, hh]
    simp only [hostMove, hh, hc]
    cases s.rstPin && l.onBus
    · exact .inr ⟨rfl, _, rfl⟩
    · exact .inl ⟨rfl, rfl⟩

/-- The sequencer that moves in the host's cycle adds no stop. -/
theorem hostWithSeq_faultsExactlyIf (s : State) : FaultsExactlyIf s.accessesInReset (hostWithSeq s) := by
  cases hb : s.busy with
  | false => rw [hostWithSeq_of_idle hb]; exact hostMove_faultsExactlyIf s
  | true =>
    obtain ⟨hc, hm⟩ | ⟨hc, u, hm⟩ := hostMove_faultsExactlyIf s
    · exact .inl ⟨hc, by simp only [hostWithSeq, hb, hm, if_true]⟩
    · obtain ⟨t, ht, -⟩ := seqMove_next u
      exact .inr ⟨hc, t, (hostWithSeq_of_busy hb hm).trans ht⟩

theorem seqMove_faultsExactlyIf_false (s : State) : FaultsExactlyIf false (seqMove s) :=
  .inr ⟨rfl, (seqMove_next s).imp fun _ h => h.1⟩

/-- A step stops exactly at a host's access during reset. -/
theorem step_faultsExactlyIf (s : State) : FaultsExactlyIf (hostMoves s && s.accessesInReset) (step s) := by
  cases hs : s.sched with
  | nil =>
    rw [step_of_sched_nil hs]
    simp only [hostMoves, hs, defaultMove]
    cases s.busy
    · exact hostMove_faultsExactlyIf s
    · exact seqMove_faultsExactlyIf_false s
  | cons m ms =>
    rw [step_of_sched hs]
    simp only [hostMoves, hs]
    cases m with
    | host => exact hostMove_faultsExactlyIf { s with sched := ms }
    | hostWithSeq => exact hostWithSeq_faultsExactlyIf { s with sched := ms }
    | seq => exact seqMove_faultsExactlyIf_false _
    | draw | assertReset | releaseReset => exact .inr ⟨rfl, _, rfl⟩

/-! ### The host's duties (R241) -/

/-- A write that takes effect never sets OVR (R32). -/
theorem ovr_of_writeNow_ovr {s : State} {v : Word} {l : Loc} (h : (writeNow s v l).ovr = true) : s.ovr = true := by
  cases l with
  | status => exact (Bool.and_eq_true_iff.mp h).1
  | _ => exact h

/-- A dutiful read is legal, and of STATUS or of a location that R242 does not leave free now. -/
theorem hostAccessSafe_read {s : State} {b : Nat} {off : Offset} (h : hostAccessSafe s (.read b off) = true) :
    b = 32 ∧ off.toNat % 4 = 0 ∧
      (locate s.bufBits off ≠ .status → (s.busy && (locate s.bufBits off).freeWhileBusy) = false) := by
  simp only [hostAccessSafe, Bool.and_eq_true, Bool.or_eq_true, decide_eq_true_eq, Bool.not_eq_true'] at h
  obtain ⟨⟨hlegal, -⟩, hduty⟩ := h
  obtain ⟨hw, ha⟩ := BusAccess.legal_iff.mp hlegal
  refine ⟨hw, ha, fun hne => ?_⟩
  obtain hb | hst | hf := hduty
  · simp [hb]
  · exact absurd hst hne
  · simp [hf]

/-- A dutiful write is legal, and R240 does not drop it now. -/
theorem hostAccessSafe_write {s : State} {b : Nat} {off : Offset} {v : Word}
    (h : hostAccessSafe s (.write b off v) = true) :
    b = 32 ∧ off.toNat % 4 = 0 ∧ (s.busy && (locate s.bufBits off).droppedWhileBusy) = false := by
  simp only [hostAccessSafe, Bool.and_eq_true, Bool.or_eq_true, Bool.not_eq_true'] at h
  obtain ⟨⟨hlegal, -⟩, hduty⟩ := h
  obtain ⟨hw, ha⟩ := BusAccess.legal_iff.mp hlegal
  refine ⟨hw, ha, ?_⟩
  obtain hb | hd := hduty
  · simp [hb]
  · simp [hd]

/-! ### The statements -/

/-- Settles O43: the dropped writes and those that act, location by location; the ignored ones are those of O38 and O40. -/
theorem writesWhileBusy : Obligations.WritesWhileBusy := by
  intro s v hp hb
  obtain ⟨-, -, hle⟩ := params_bounds hp
  obtain ⟨hsynd, hpos, hlen, hout, -⟩ := readOnlyLocationsIgnoreWrites s v hp
  refine ⟨fun off hoff => ?_,
    fun w hw => busAccess_write_dropped v (windowOff_aligned rfl w) (locate_in hle hw) hb rfl,
    busAccess_writeStatus s v, busAccess_write_applied v (l := .intEn) rfl rfl (Bool.and_false _), fun off hoff => ?_, hout,
    fun off hoff => (reservedLocationsReadZeroIgnoreWrites s off v hp hoff).2⟩
  · fin_cases hoff <;> exact busAccess_write_dropped v rfl rfl hb rfl
  · fin_cases hoff <;> assumption

/-- Settles O45: the free locations, STATUS field by field, and the locations that read as they do when idle. -/
theorem readsWhileBusy : Obligations.ReadsWhileBusy := by
  intro s hinv hb
  obtain ⟨-, -, hle⟩ := params_bounds hinv.params_wf
  obtain ⟨hdone, herr, -⟩ := hinv.busy_clear hb
  refine ⟨fun off hoff => ?_, fun w hw start hstart => ?_,
    ⟨_, busAccess_readStatus_busy hb, statusWhileBusy_freeBits s _, ?_, ?_, ?_, ?_, ?_⟩,
    resp_of_read_defined rfl rfl rfl, resp_of_read_defined rfl rfl rfl, resp_of_read_defined rfl rfl rfl,
    resp_of_read_defined rfl rfl rfl, resp_of_read_defined rfl rfl rfl, resp_of_read_defined rfl rfl rfl,
    resp_of_read_defined rfl rfl rfl, resp_of_read_defined rfl rfl rfl, resp_of_read_defined rfl rfl rfl,
    resp_of_read_defined rfl rfl rfl, fun off hoff => ?_⟩
  · fin_cases hoff <;> exact busAccess_read_free rfl rfl hb rfl nofun
  · fin_cases hstart
    · exact busAccess_read_free (windowOff_aligned rfl w) (locate_in hle hw) hb rfl nofun
    · exact busAccess_read_free (windowOff_aligned rfl w) (locate_out hle hw) hb rfl nofun
  · rw [statusWhileBusy_getLsbD, statusWord_getLsbD]; exact hb
  · rw [statusWhileBusy_getLsbD, statusWord_getLsbD]; exact hdone
  · rw [statusWhileBusy_field s _ (by decide), statusWord_err, herr]; rfl
  · rw [statusWhileBusy_getLsbD, statusWord_getLsbD]; rfl
  · rw [statusWhileBusy_field s _ (by decide), statusWord_reserved]
  · exact congrArg State.resp (reservedLocationsReadZeroIgnoreWrites s off 0 hinv.params_wf hoff).1

/-- Settles O59: `step_faultsExactlyIf`, with its condition spelled out. -/
theorem stepFaultsOnlyInReset : Obligations.StepFaultsOnlyInReset := by
  intro s
  refine ⟨(step_faultsExactlyIf s).ne_refused, fun f => ?_⟩
  rw [(step_faultsExactlyIf s).eq_fault_iff f, Bool.and_eq_true, hostMoves_iff, State.accessesInReset_iff]
  cases f
  tauto

/-- Settles O60: a dutiful read or write is defined or applied; an access to a running command is `SameCommand`. -/
theorem hostDutyAndUncorruptedCommands : Obligations.HostDutyAndUncorruptedCommands := by
  refine ⟨fun s a h => ?_, fun s a hb => ?_⟩
  · cases a with
    | read b off =>
      obtain ⟨rfl, ha, hdefined⟩ := hostAccessSafe_read h
      obtain ⟨n, hn⟩ := afterRead_eq s (locate s.bufBits off)
      refine ⟨fun ho => ?_, ⟨_, congrArg State.resp (busAccess_read ha)⟩, fun off' heq hne => ?_⟩
      · rwa [busAccess_read ha, hn] at ho
      · cases heq
        exact congrArg State.resp (busAccess_read_defined ha rfl (hdefined hne))
    | write b off v =>
      obtain ⟨rfl, ha, hd⟩ := hostAccessSafe_write h
      have happ : busAccess s (.write 32 off v) = okWrite (writeNow s v (locate s.bufBits off)) :=
        busAccess_write_applied v ha rfl hd
      exact ⟨fun ho => ovr_of_writeNow_ovr (happ ▸ ho), ⟨0, congrArg State.resp happ⟩, fun _ heq => nomatch heq⟩
  · have same := busAccess_busy hb a
    exact ⟨same.inflight, same.mem, same.inLen, same.outLen, same.cfg, same.act, same.cfgValid, same.geState⟩

/-- Settles O51: the buffers after reset have BUF_BITS bits, and nothing is in progress. -/
theorem resetMeetsInvariant : Obligations.ResetMeetsInvariant := by
  have hmem : State.reset.mem.wf State.reset.bufBits = true := memory_afterReset_wf 4096 0
  constructor
  · exact {
      params_wf := rfl
      mem_wf := hmem
      busy_clear := nofun
      cfg_legal := nofun
      outLen_le := Nat.zero_le _
      branch_ok := fun h => absurd rfl h
      short_ok := nofun
      in_reset := nofun
      taken_lt := nofun }
  · exact {
      params := rfl
      buffers := hmem
      idle := rfl
      status := rfl
      intEn := rfl
      results := ⟨rfl, rfl, rfl⟩
      inLen := rfl
      cfg := rfl
      released := rfl }

/-- Settles O53: the fields of `blockReset`; the release that follows only lets go of the reset input. -/
theorem resetAbandonsAndClears : Obligations.ResetAbandonsAndClears := by
  intro s ms hs
  exact ⟨blockReset { s with sched := ms }, step_of_sched hs, rfl, rfl, rfl, rfl, rfl, rfl, rfl, rfl, rfl, rfl, rfl, rfl,
    rfl, rfl, rfl, rfl, rfl, rfl, rfl, fun ms' h => step_of_sched (s := blockReset { s with sched := ms }) h⟩

end Sys2Proof.Machine
end

section
/-! What an access, a command and reset do to the clauses of the invariant, and the statements that every step keeps it and
that decoding inverts encoding (spec 10_state.md; 43_control.md; 70_reset_and_hazards.md; 30_encoding.md). -/

namespace Sys2Proof.Machine

open Sys2Proof.Claims

/-! ### The invariant of a state outside reset -/

/-- With nothing in flight and the reset input released, the clauses on the parameters, the buffers, the configuration, BRANCH
and SHORT are all of the invariant. -/
theorem Invariant.of_idle {s : State} (idle : s.busy = false) (released : s.rstPin = false) (params_wf : s.params.wf = true)
    (mem_wf : s.mem.wf s.bufBits = true) (cfg_legal : s.cfgValid = true → legalConfig s.act = true)
    (outLen_le : s.outLen.toNat ≤ s.bufBits) (branch_ok : s.branch ≠ .none → s.err = .none ∧ s.short = false)
    (short_ok : s.short = true → s.err = .none ∧ s.branch = .none) : Invariant s where
  params_wf := params_wf
  mem_wf := mem_wf
  busy_clear := fun hb => absurd (hb.symm.trans idle) nofun
  cfg_legal := cfg_legal
  outLen_le := outLen_le
  branch_ok := branch_ok
  short_ok := short_ok
  in_reset := fun hp => absurd (hp.symm.trans released) nofun
  taken_lt := fun _ hf => absurd (hf.symm.trans (busy_eq_false.mp idle)) nofun

/-- Reset abandons the command in flight, so a running command meets the reset input released (R230, R232). -/
theorem Invariant.released_of_busy {s : State} (h : Invariant s) (hb : s.busy = true) : s.rstPin = false := by
  refine Bool.eq_false_iff.mpr fun hp => ?_
  obtain ⟨hidle, -⟩ := h.in_reset hp
  exact absurd (hb.symm.trans hidle) nofun

/-- Outside reset, a change that spares the fields of `SameCommand` and does not set DONE keeps the invariant. -/
theorem Invariant.of_sameCommand {s t : State} (h : Invariant s) (same : SameCommand s t) (released : s.rstPin = false)
    (hdone : t.done = true → s.done = true) : Invariant t where
  params_wf := same.params ▸ h.params_wf
  mem_wf := by simpa only [State.bufBits, same.mem, same.params] using h.mem_wf
  busy_clear := fun hb => by
    obtain ⟨hd, hstatus⟩ := h.busy_clear ((congrArg Option.isSome same.inflight).symm.trans hb)
    exact ⟨Bool.eq_false_iff.mpr (mt hdone (Bool.eq_false_iff.mp hd)),
      by simpa only [same.err, same.branch, same.short] using hstatus⟩
  cfg_legal := by simpa only [same.cfgValid, same.act] using h.cfg_legal
  outLen_le := by simpa only [State.bufBits, same.outLen, same.params] using h.outLen_le
  branch_ok := by simpa only [same.branch, same.err, same.short] using h.branch_ok
  short_ok := by simpa only [same.branch, same.err, same.short] using h.short_ok
  in_reset := fun hp => absurd (hp.symm.trans (same.rstPin.trans released)) nofun
  taken_lt := by simpa only [takenOk, State.len, same.inflight, same.inLen] using h.taken_lt

/-- The response, the values read and the counter of free values do not enter the invariant. -/
theorem inv_response {s : State} (h : Invariant s) (r : Option BusResp) (vs : List Word) (n : Nat) :
    Invariant { s with resp := r, reads := vs, free := n } :=
  ⟨h.params_wf, h.mem_wf, h.busy_clear, h.cfg_legal, h.outLen_le, h.branch_ok, h.short_ok, h.in_reset, h.taken_lt⟩

/-! ### The host's access (R240, R241) -/

/-- An access sets at most the response, the counter of free values and OVR, or is a write that takes effect (R69, R240). -/
theorem busAccess_cases (s : State) (a : BusAccess) :
    (∃ r n o, busAccess s a = { s with resp := r, free := n, ovr := o }) ∨
      ∃ off v, busAccess s a = okWrite (writeNow s v (locate s.bufBits off)) := by
  by_cases hl : a.legal = true
  · obtain ⟨hw, ha⟩ := BusAccess.legal_iff.mp hl
    cases a with
    | read b off =>
      cases hw
      obtain ⟨n, hn⟩ := afterRead_eq s (locate s.bufBits off)
      exact .inl ⟨_, n, s.ovr, (busAccess_read (off := off) ha).trans (by rw [hn])⟩
    | write b off v =>
      cases hw
      cases hd : s.busy && (locate s.bufBits off).droppedWhileBusy with
      | true =>
        obtain ⟨hb, hdrop⟩ := Bool.and_eq_true_iff.mp hd
        exact .inl ⟨_, s.free, true, busAccess_write_dropped (off := off) v ha rfl hb hdrop⟩
      | false => exact .inr ⟨off, v, busAccess_write_applied (off := off) v ha rfl hd⟩
  · exact .inl ⟨_, s.free, s.ovr, busAccess_illegal hl⟩

theorem done_of_writeNow_done {s : State} {v : Word} {l : Loc} (h : (writeNow s v l).done = true) : s.done = true := by
  cases l with
  | cmd => cases h
  | status => exact (Bool.and_eq_true_iff.mp h).1
  | _ => exact h

/-- No access sets DONE (R26). -/
theorem done_of_busAccess_done {s : State} {a : BusAccess} (h : (busAccess s a).done = true) : s.done = true := by
  obtain ⟨r, n, o, ha⟩ | ⟨off, v, ha⟩ := busAccess_cases s a
  · rwa [ha] at h
  · rw [ha] at h
    exact done_of_writeNow_done h

/-- A write that takes effect in an idle block keeps the invariant; a write to CMD is an acceptance. -/
theorem Invariant.writeNow_idle {s : State} (h : Invariant s) (hb : s.busy = false) (hr : s.rstPin = false) (v : Word)
    {l : Loc} (hl : ∀ w, l = .inWord w → 32 * w + 32 ≤ s.bufBits) : Invariant (writeNow s v l) := by
  cases l with
  | cmd => exact inv_accept h hr v
  | inWord w =>
    exact .of_idle hb hr h.params_wf (memory_wf_setWord v h.mem_wf (hl w rfl)) h.cfg_legal h.outLen_le h.branch_ok h.short_ok
  | _ => exact .of_idle hb hr h.params_wf h.mem_wf h.cfg_legal h.outLen_le h.branch_ok h.short_ok

/-- Outside reset every access keeps the invariant. -/
theorem Invariant.busAccess_released {s : State} (h : Invariant s) (hr : s.rstPin = false) (a : BusAccess) :
    Invariant (busAccess s a) := by
  cases hb : s.busy with
  | true => exact h.of_sameCommand (busAccess_busy hb a) hr done_of_busAccess_done
  | false =>
    obtain ⟨r, n, o, ha⟩ | ⟨off, v, ha⟩ := busAccess_cases s a
    · rw [ha]
      exact h.of_sameCommand (by constructor <;> rfl) hr id
    · obtain ⟨hmul, -⟩ := params_bounds h.params_wf
      rw [ha]
      exact inv_response (h.writeNow_idle hb hr v fun w hloc => locate_inWord hloc hmul) _ _ _

/-! ### The host's move (R230) -/

/-- The host makes an access only while the reset input is released. -/
theorem released_of_hostMove {s t : State} {l : HostLine} {rest : List HostLine} (hh : s.host = l :: rest)
    (hl : l.onBus = true) (h : hostMove s = .next t) : s.rstPin = false := by
  refine Bool.eq_false_iff.mpr fun hp => ?_
  simp [hostMove, hh, hp, hl] at h

theorem Invariant.of_hostMove {s t : State} (h : Invariant s) (hm : hostMove s = .next t) : Invariant t := by
  cases hh : s.host with
  | nil =>
    cases (hostMove_nil hh).symm.trans hm
    exact h
  | cons l rest =>
    cases l with
    | access a =>
      have hr := released_of_hostMove hh rfl hm
      have hacc := (inv_agents h s.port s.sched rest).busAccess_released hr a
      cases (hostMove_cons hh hr).symm.trans hm
      cases a with
      | read b off => exact inv_response hacc _ _ _
      | write b off v => exact hacc
    | wait =>
      have hr := released_of_hostMove hh rfl hm
      cases (hostMove_wait hr hh).symm.trans hm
      exact inv_agents (h.busAccess_released hr statusRead) _ _ _
    | waitIrq =>
      cases (hostMove_waitIrq hh).symm.trans hm
      exact inv_agents h _ _ _

/-! ### What a command leaves of each clause (R182, R189, R244) -/

theorem Runs.sameSurround {i : Instr} {s t : State} (h : Runs i s t) : SameSurround s t := by
  obtain ⟨u, hu, same⟩ := exec_next i s
  cases hu.symm.trans (exec_of_runs h)
  exact same

/-- A command ends, or waits with fewer draws than it needs (R160, R182). -/
theorem Runs.ends_or_waits {i : Instr} {s t : State} (h : Runs i s t) :
    t.busy = false ∨
      (t = { s.setTaken (s.taken ++ s.port) with port := [] } ∧ s.taken.length + s.port.length < drawsNeeded i s.len) := by
  cases h with
  | waits _ _ _ few => exact .inr ⟨rfl, few⟩
  | _ => exact .inl rfl

/-- CFG_VALID stays 1 only with an active configuration that passed the checks (R31, R185). -/
theorem Runs.cfg_legal {i : Instr} {s t : State} (h : Runs i s t) (hs : s.cfgValid = true → legalConfig s.act = true) :
    t.cfgValid = true → legalConfig t.act = true := by
  cases h with
  | configured legal => exact fun _ => legal
  | misconfigured => exact nofun
  | _ => exact hs

/-- Only BCH_DEC sets BRANCH and only REP_DEC sets SHORT, each in a completion without error (R28, R30). -/
theorem Runs.branch_short {i : Instr} {s t : State} (h : Runs i s t) (hb : s.branch = .none) (hs : s.short = false) :
    (t.branch = .none ∧ t.short = false) ∨ (t.err = .none ∧ (t.branch = .none ∨ t.short = false)) := by
  cases h with
  | bchDec => exact .inr ⟨rfl, .inr hs⟩
  | repDec => exact .inr ⟨rfl, .inl hb⟩
  | _ => exact .inl ⟨hb, hs⟩

/-- A command leaves IN, or copies OUT to it (R40, R188). -/
theorem Runs.inBuf_eq {i : Instr} {s t : State} (h : Runs i s t) :
    t.mem.inBuf = s.mem.inBuf ∨ t.mem.inBuf = s.mem.outBuf := by
  cases h with
  | move => exact .inr rfl
  | _ => exact .inl rfl

theorem input_length_le_len (s : State) : s.input.length ≤ s.len := List.length_take_le _ _

theorem Invariant.input_length_le_bufBits {s : State} (h : Invariant s) : s.input.length ≤ s.bufBits := by
  obtain ⟨hin, -⟩ := memory_wf_iff.mp h.mem_wf
  exact (List.length_take_le' _ _).trans_eq hin

/-- A command leaves OUT and OUT_LEN, or writes a sequence that fits the buffer (R37, R41). -/
theorem Runs.out_fits {i : Instr} {s t : State} (h : Runs i s t) (hinv : Invariant s) :
    (t.mem.outBuf = s.mem.outBuf ∧ t.outLen = s.outLen) ∨
      ∃ xs : Bits, xs.length ≤ s.bufBits ∧ t.mem.outBuf = padTo s.bufBits xs ∧ t.outLen = BitVec.ofNat 16 xs.length := by
  have hin := hinv.input_length_le_bufBits
  have hlen := input_length_le_len s
  cases h with
  | bchEnc valid fits =>
    obtain ⟨-, -, hn, hnb⟩ := hinv.code_bounds valid
    have hk : s.len = s.act.k.toNat := of_decide_eq_true fits
    exact .inr ⟨_, by rw [encodeWord_length, Config.redundancy]; omega, rfl, rfl⟩
  | bchDec valid =>
    obtain ⟨-, -, hn, hnb⟩ := hinv.code_bounds valid
    exact .inr ⟨_, by rw [decodeWord_msg_length]; omega, rfl, rfl⟩
  | repEnc valid fits =>
    obtain ⟨-, hr⟩ := Bool.and_eq_true_iff.mp fits
    have hle : s.input.length * s.r ≤ s.bufBits := (Nat.mul_le_mul_right _ hlen).trans (of_decide_eq_true hr)
    exact .inr ⟨_, (replicateBits_length _ _).trans_le hle, rfl, rfl⟩
  | repDec valid =>
    have hg : (groups s.r s.input).length ≤ s.input.length :=
      (groups_length _ _).trans_le (ceilDiv_le_self (hinv.one_le_r valid) _)
    exact .inr ⟨_, List.length_map majority ▸ hg.trans hin, rfl, rfl⟩
  | bscTx => exact .inr ⟨_, by rw [bsc_length]; omega, rfl, rfl⟩
  | geTx valid fits enough =>
    have hfit : s.len ≤ s.bufBits := of_decide_eq_true fits
    exact .inr ⟨s.geResult.1, (hinv.geResult_length hfit (List.length_append ▸ enough)).trans_le hfit, rfl, rfl⟩
  | _ => exact .inl ⟨rfl, rfl⟩

theorem Runs.mem_wf {i : Instr} {s t : State} (h : Runs i s t) (hinv : Invariant s) : t.mem.wf s.bufBits = true := by
  obtain ⟨hin, hout⟩ := memory_wf_iff.mp hinv.mem_wf
  refine memory_wf_iff.mpr ⟨?_, ?_⟩
  · obtain hi | hi := h.inBuf_eq <;> rw [hi] <;> assumption
  · obtain ⟨ho, -⟩ | ⟨xs, hle, ho, -⟩ := h.out_fits hinv
    · rw [ho, hout]
    · rw [ho, padTo_length_of_le hle]

theorem Runs.outLen_le {i : Instr} {s t : State} (h : Runs i s t) (hinv : Invariant s) : t.outLen.toNat ≤ s.bufBits := by
  obtain ⟨-, hl⟩ | ⟨xs, hle, -, hl⟩ := h.out_fits hinv
  · exact hl ▸ hinv.outLen_le
  · rw [hl, BitVec.toNat_ofNat]
    exact (Nat.mod_le _ _).trans hle

/-! ### The sequencer's move keeps the invariant -/

/-- A command that waits keeps the invariant, because it holds fewer draws than it needs (R160). -/
theorem Invariant.setTaken_few {s : State} {f : InFlight} {i : Instr} {us : List Draw} (h : Invariant s)
    (hf : s.inflight = some f) (hd : decode f.word = .instr i) (few : us.length < drawsNeeded i s.len) :
    Invariant { s.setTaken us with port := [] } where
  params_wf := h.params_wf
  mem_wf := h.mem_wf
  busy_clear := fun _ => h.busy_clear (busy_eq_true.mpr ⟨f, hf⟩)
  cfg_legal := h.cfg_legal
  outLen_le := h.outLen_le
  branch_ok := h.branch_ok
  short_ok := h.short_ok
  in_reset := fun hp => absurd (hp.symm.trans (h.released_of_busy (busy_eq_true.mpr ⟨f, hf⟩))) nofun
  taken_lt := fun g hg => by
    obtain rfl : { f with taken := us } = g := by simpa [State.setTaken, hf] using hg
    exact .inr ⟨i, hd, few⟩

theorem Runs.keeps_invariant {i : Instr} {s t : State} {f : InFlight} (h : Runs i s t) (hinv : Invariant s)
    (hf : s.inflight = some f) (hd : decode f.word = .instr i) : Invariant t := by
  have hb : s.busy = true := busy_eq_true.mpr ⟨f, hf⟩
  have same := h.sameSurround
  have hparams : t.bufBits = s.bufBits := congrArg Params.bufBits same.params
  obtain ⟨-, -, hbranch, hshort⟩ := hinv.busy_clear hb
  obtain hidle | ⟨rfl, few⟩ := h.ends_or_waits
  · have hstatus := h.branch_short hbranch hshort
    refine .of_idle hidle (same.rstPin.trans (hinv.released_of_busy hb)) (same.params ▸ hinv.params_wf)
      (hparams ▸ h.mem_wf hinv) (h.cfg_legal hinv.cfg_legal) (hparams ▸ h.outLen_le hinv) (fun hne => ?_) fun hsh => ?_
    · simpa [hne] using hstatus
    · simpa [hsh] using hstatus
  · exact hinv.setTaken_few hf hd (List.length_append ▸ few)

/-- An illegal word ends with an error, and BRANCH and SHORT are clear (R201). -/
theorem Invariant.raise_busy {s : State} (h : Invariant s) (hb : s.busy = true) (e : ErrCode) : Invariant (raise e s) := by
  obtain ⟨-, -, hbranch, hshort⟩ := h.busy_clear hb
  exact .of_idle rfl (h.released_of_busy hb) h.params_wf h.mem_wf h.cfg_legal h.outLen_le (absurd hbranch)
    fun hs => absurd (hs.symm.trans hshort) nofun

theorem Invariant.of_seqMove {s t : State} (h : Invariant s) (hm : seqMove s = .next t) : Invariant t := by
  cases hf : s.inflight with
  | none =>
    cases (seqMove_idle hf).symm.trans hm
    exact h
  | some f =>
    obtain ⟨i, hd, hr⟩ | ⟨e, -, rfl⟩ := seqMove_eq_next hf hm
    · exact hr.keeps_invariant h hf hd
    · exact h.raise_busy (busy_eq_true.mpr ⟨f, hf⟩) .illegalCmd

/-! ### The other moves, and the step -/

/-- Reset leaves STATUS as it is after reset release: 0 (R230). -/
theorem blockReset_statusWord (s : State) : (blockReset s).statusWord = 0 := by
  change State.reset.statusWord = 0
  rfl

/-- The registers that reset sets are those the invariant asks for while the reset input is asserted (R230, R231). -/
theorem inv_blockReset {s : State} (h : Invariant s) : Invariant (blockReset s) where
  params_wf := h.params_wf
  mem_wf := memory_afterReset_wf _ _
  busy_clear := nofun
  cfg_legal := nofun
  outLen_le := Nat.zero_le _
  branch_ok := fun hb => absurd rfl hb
  short_ok := nofun
  in_reset := fun _ => ⟨rfl, blockReset_statusWord s, rfl, rfl, rfl, rfl, rfl, rfl⟩
  taken_lt := nofun

theorem inv_releaseReset {s : State} (h : Invariant s) : Invariant (releaseReset s) :=
  ⟨h.params_wf, h.mem_wf, h.busy_clear, h.cfg_legal, h.outLen_le, h.branch_ok, h.short_ok, nofun, h.taken_lt⟩

theorem Invariant.of_hostWithSeq {s t : State} (h : Invariant s) (hm : hostWithSeq s = .next t) : Invariant t := by
  cases hb : s.busy with
  | false => exact h.of_hostMove ((hostWithSeq_of_idle hb).symm.trans hm)
  | true =>
    obtain ⟨u, hhost, hseq⟩ := hostWithSeq_busy hb hm
    exact (h.of_hostMove hhost).of_seqMove hseq

theorem Invariant.of_agentMove {m : Move} {s t : State} (h : Invariant s) (hm : agentMove m s = .next t) :
    Invariant t := by
  cases m with
  | host => exact h.of_hostMove hm
  | seq => exact h.of_seqMove hm
  | hostWithSeq => exact h.of_hostWithSeq hm
  | draw u => cases hm; exact inv_agents h _ _ _
  | assertReset => cases hm; exact inv_blockReset h
  | releaseReset => cases hm; exact inv_releaseReset h

theorem Invariant.of_defaultMove {s t : State} (h : Invariant s) (hm : defaultMove s = .next t) : Invariant t := by
  unfold defaultMove at hm
  split at hm
  · exact h.of_seqMove hm
  · exact h.of_hostMove hm

/-! ### The statements -/

/-- Settles O52: the schedule names an agent's move, or the default; each keeps the invariant. -/
theorem stepKeepsInvariant : Obligations.StepKeepsInvariant := by
  intro s t hinv h
  cases hs : s.sched with
  | nil => exact hinv.of_defaultMove ((step_of_sched_nil hs).symm.trans h)
  | cons m ms => exact (inv_agents hinv s.port ms s.host).of_agentMove ((step_of_sched hs).symm.trans h)

/-- Settles O2, by evaluating the ten command words. -/
theorem decodeEncodeAgree : Obligations.DecodeEncodeAgree := decode_encode

end Sys2Proof.Machine
end
